-- ==== Sys2Proof/Word.lean ====
section
/-! DEFINITION. The word types of the block (00_scope.md R7: every value is an unsigned integer of 8, 16 or 32 bits;
a packed Descriptor has 64). -/

namespace Sys2Proof

/-- u8: a literal byte, a raw length code, a compressed byte. -/
abbrev Byte := BitVec 8

/-- u16: matchLength, matchOffset. -/
abbrev Half := BitVec 16

/-- u32: a MatchToken, a counter, a size, a literalRunLength. -/
abbrev Word := BitVec 32

/-- u64: a packed Descriptor (30_encoding.md R85). -/
abbrev DWord := BitVec 64

end Sys2Proof
end

