-- ==== Sys2Proof/Syntax.lean ====
section
/-! DEFINITION. The instructions: one constructor per row of spec/opcode_table.json (00_scope.md R2, R3; the words the two
units decode, and the host's START). Bits a rule ignores are kept as fields, so that encoding gives back the word. -/

namespace Sys2Proof

inductive Instr where
  /-- LIT (R81, R121): literal byte `ch`; `off` is the ignored OFFSET field. -/
  | lit (ch : Byte) (off : Half)
  /-- BADLEN_1 (R83, R124): RAW_LEN = 1, reserved. -/
  | badLen1 (ch : Byte) (off : Half)
  /-- BADLEN_2_3 (R83, R124): RAW_LEN = 2 + x, reserved; `x` is the table's any-bit. -/
  | badLen23 (x : BitVec 1) (ch : Byte) (off : Half)
  /-- MATCH_ZERO_OFF (R83, R124): RAW_LEN = `raw` at least 4, OFFSET = 0, reserved. -/
  | matchZeroOff (ch : Byte) (raw : Byte)
  /-- MATCH (R82, R122): a match token met below the literal ceiling; `ch` is the ignored LIT_CHAR field. -/
  | matchTok (ch : Byte) (raw : Byte) (off : Half)
  /-- MATCH_OVF (R82, R123): the same word class met at or above the literal ceiling. -/
  | matchOvf (ch : Byte) (raw : Byte) (off : Half)
  /-- END (R86, R164): the all-zero descriptor. -/
  | endDesc
  /-- LITONLY (R86, R166): a literal run of `L` bytes and no match. -/
  | litOnly (L : Word)
  /-- OVFSENT (R86, R176): matchLength = matchOffset = OVF_SENTINEL. -/
  | ovfSent (L : Word)
  /-- MATCHSEQ (R86, R165): every other descriptor. -/
  | matchSeq (L : Word) (ML : Half) (OFF : Half)
  /-- START (R120, R160, R223): the host command that begins a block of `n` bytes. -/
  | start (n : Word)
deriving DecidableEq, Repr

/-- Where an instruction comes from and the word it is there: a MatchToken on TOK (R80), a Descriptor on DESC (R85), or the
operand of the host's START command, which is no channel word (R120, opcode_table.json row START). -/
inductive InputWord where
  | token (w : Word)
  | desc (d : DWord)
  | command (n : Word)
deriving DecidableEq, Repr

/-- The rows of format MatchToken32: the classes of 30_encoding.md R95. -/
def Instr.isToken : Instr → Bool
  | .lit _ _ => true
  | .badLen1 _ _ => true
  | .badLen23 _ _ _ => true
  | .matchZeroOff _ _ => true
  | .matchTok _ _ _ => true
  | .matchOvf _ _ _ => true
  | .endDesc => false
  | .litOnly _ => false
  | .ovfSent _ => false
  | .matchSeq _ _ _ => false
  | .start _ => false

/-- MATCH and MATCH_OVF are one word class; MATCH_OVF is the row whose condition is that the literal count has reached the
ceiling (R122, R123). -/
def Instr.needsCeiling : Instr → Bool
  | .lit _ _ => false
  | .badLen1 _ _ => false
  | .badLen23 _ _ _ => false
  | .matchZeroOff _ _ => false
  | .matchTok _ _ _ => false
  | .matchOvf _ _ _ => true
  | .endDesc => false
  | .litOnly _ => false
  | .ovfSent _ => false
  | .matchSeq _ _ _ => false
  | .start _ => false

end Sys2Proof
end

