-- ==== Sys2Proof/Config.lean ====
section
/-! DEFINITION. The parameters a model takes (00_scope.md R6) and the one free value of the model. -/

namespace Sys2Proof

/-- The implementation parameters of R6. They are plain data inside State, so a statement about every state is a statement
about every value of every parameter (93_implementation_defined.md U4, U5, U7, U17). -/
structure Config where
  /-- `MAX_LIT_COUNT` (R6, R37): the literal-overflow threshold, at least 1. -/
  maxLitCount : Word
  /-- `OVF_SENTINEL` (R6): matchLength and matchOffset of the overflow trailing descriptor. -/
  ovfSentinel : Half
  /-- `TERMINATOR_BYTE` (R6): the byte ENC emits for an empty block. -/
  terminatorByte : Byte
  /-- `TOK_DEPTH` (R6, R36). -/
  tokDepth : Nat
  /-- `LIT_DEPTH` (R6, R36). -/
  litDepth : Nat
  /-- `DESC_DEPTH` (R6, R36). -/
  descDepth : Nat
  /-- `OUT_DEPTH` (R6, R36). -/
  outDepth : Nat
  /-- `SIZE_DEPTH` (R6, R36). -/
  sizeDepth : Nat
  /-- `MIN_BLOCK_SIZE` (R6): host only, the small-block threshold. -/
  minBlockSize : Nat
  /-- `LANES` (R6): host only, the parallel batch width. -/
  lanes : Nat
deriving DecidableEq, Repr

/-- The parameters State.reset has: the defaults of R6, and for the OPEN ones (the five depths and `LANES`) values of the
model's own. DESIGN CHOICE, notes/assumptions/9.md and 10.md; no statement rests on them. -/
def Config.initial : Config where
  maxLitCount := 4096
  ovfSentinel := 777
  terminatorByte := 0
  tokDepth := 16
  litDepth := 65536
  descDepth := 16
  outDepth := 16
  sizeDepth := 1
  minBlockSize := 128
  lanes := 1

/-- `MAX_BLOCK` (R6): the largest block length. -/
def maxBlock : Nat := 65536

/-- `MIN_MATCH` (R6): the implicit minimum match. -/
def minMatch : Nat := 4

/-- `NIBBLE_MAX` (R6): token nibble saturation value and escape threshold. -/
def nibbleMax : Nat := 15

/-- `EXT_UNIT` (R6): the value of a continuation byte. -/
def extUnit : Nat := 255

/-- FREE VALUE (DESIGN CHOICE, notes/assumptions/2.md): which of several enabled agents takes a turn that the agenda does
not fix. 20_memory.md R69 allows any interleaving; nothing in Lean can evaluate this constant. It is applied to the
counter `tick` of State. -/
opaque Config.freeChoice : Nat → Nat

end Sys2Proof
end

