-- ==== Sys2Proof/WellFormed.lean ====
section
/-! DEFINITION. Which instruction terms are words of their row: the conditions of the class tables (30_encoding.md R81, R82,
R83, R86) that the constructor's fields do not already carry. -/

namespace Sys2Proof

/-- R82, R83: a match's raw length code is at least 4. -/
def rawLenOk (raw : Byte) : Bool := decide (minMatch ≤ raw.toNat)

/-- R82: a match's offset is at least 1. -/
def offsetOk (off : Half) : Bool := decide (off ≠ 0)

/-- R86, tested in order: a descriptor with both fields zero is END or LITONLY, one with both equal to the sentinel is
OVFSENT, so MATCHSEQ has neither. -/
def matchSeqOk (sentinel ML OFF : Half) : Bool :=
  decide (¬ (ML = 0 ∧ OFF = 0)) && decide (¬ (ML = sentinel ∧ OFF = sentinel))

/-- Well-formed under the configuration `c` (only OVF_SENTINEL matters). OVFSENT words exist only if the sentinel is not 0:
with sentinel 0 the earlier classes END and LITONLY take them (R86). -/
def Instr.wf (c : Config) : Instr → Bool
  | .lit _ _ => true
  | .badLen1 _ _ => true
  | .badLen23 _ _ _ => true
  | .matchZeroOff _ raw => rawLenOk raw
  | .matchTok _ raw off => rawLenOk raw && offsetOk off
  | .matchOvf _ raw off => rawLenOk raw && offsetOk off
  | .endDesc => true
  | .litOnly L => decide (L ≠ 0)
  | .ovfSent _ => decide (c.ovfSentinel ≠ 0)
  | .matchSeq _ ML OFF => matchSeqOk c.ovfSentinel ML OFF
  | .start _ => true

end Sys2Proof
end

