-- ==== Sys2Proof/Decode.lean ====
section
/-! DEFINITION. The decoders of the two units (30_encoding.md R95, R86), total on every word, and the encoder written from
the same tables. -/

namespace Sys2Proof

/-! ### Fields of a MatchToken (R80) -/

/-- `LIT_CHAR`, bits [7:0]. -/
def litChar (w : Word) : Byte := w.extractLsb' 0 8

/-- `RAW_LEN`, bits [15:8]. -/
def rawLen (w : Word) : Byte := w.extractLsb' 8 8

/-- `OFFSET`, bits [31:16]. -/
def tokOffset (w : Word) : Half := w.extractLsb' 16 16

/-- The MatchToken with the three fields of R80. -/
def tokenWord (ch raw : Byte) (off : Half) : Word := off ++ raw ++ ch

/-! ### Fields of a Descriptor (R85) -/

/-- literalRunLength, `desc[63:32]`. -/
def descL (d : DWord) : Word := d.extractLsb' 32 32

/-- matchOffset, `desc[31:16]`. -/
def descOFF (d : DWord) : Half := d.extractLsb' 16 16

/-- matchLength, `desc[15:0]`. -/
def descML (d : DWord) : Half := d.extractLsb' 0 16

/-- `pack(L, ML, OFF)` of R85. -/
def pack (L : Word) (ML OFF : Half) : DWord := L ++ OFF ++ ML

/-! ### The decoders -/

/-- R95, in the priority order of opcode_table.json. `ceiling` is DIV's own condition `litCount >= MAX_LIT_COUNT`, which
alone tells MATCH_OVF (R123) from MATCH (R122): a word is decoded together with the state of the unit (R3).
DEDUCED, safe: notes/assumptions/12.md. -/
def decodeToken (ceiling : Bool) (w : Word) : Instr :=
  if rawLen w = 0 then .lit (litChar w) (tokOffset w)
  else if rawLen w = 1 then .badLen1 (litChar w) (tokOffset w)
  else if rawLen w = 2 ∨ rawLen w = 3 then .badLen23 ((rawLen w).extractLsb' 0 1) (litChar w) (tokOffset w)
  else if tokOffset w = 0 then .matchZeroOff (litChar w) (rawLen w)
  else if ceiling then .matchOvf (litChar w) (rawLen w) (tokOffset w)
  else .matchTok (litChar w) (rawLen w) (tokOffset w)

/-- R86, in its order: END, LITONLY, OVFSENT, MATCHSEQ. -/
def decodeDesc (sentinel : Half) (d : DWord) : Instr :=
  if d = 0 then .endDesc
  else if descML d = 0 ∧ descOFF d = 0 then .litOnly (descL d)
  else if descML d = sentinel ∧ descOFF d = sentinel then .ovfSent (descL d)
  else .matchSeq (descL d) (descML d) (descOFF d)

/-- The decoder over the three sources. Every token, every descriptor and every command operand decodes (R83: every other
32-bit value is a LIT or a MATCH; R86: every 64-bit word belongs to exactly one class). -/
def decode (c : Config) (ceiling : Bool) : InputWord → Instr
  | .token w => decodeToken ceiling w
  | .desc d => decodeDesc c.ovfSentinel d
  | .command n => .start n

/-- Why bits from outside are no instruction word. -/
inductive DecodeReject where
  /-- No channel that a unit decodes has elements of this width (R63: TOK has 32 bits and DESC 64, and no rule reads part of
  an element). -/
  | noChannelOfWidth (nbits : Nat)
deriving DecidableEq, Repr

/-- The decoder on raw bits: 32 bits are a MatchToken, 64 a Descriptor, every other width is rejected by name. -/
def decodeBits (c : Config) (ceiling : Bool) (nbits w : Nat) : Except DecodeReject Instr :=
  if nbits = 32 then .ok (decode c ceiling (.token (BitVec.ofNat 32 w)))
  else if nbits = 64 then .ok (decode c ceiling (.desc (BitVec.ofNat 64 w)))
  else .error (.noChannelOfWidth nbits)

/-- The instruction the decoder reads from the bits of a table row, under the parameters of State.reset. Words move whole
over the channels (R63), so bit k of the table is bit k of the word. A 32-bit word is read below the ceiling, so a MATCH_OVF
row's word gives MATCH, and START, a host command, is no word at all (notes/assumptions/12.md and 13.md). -/
def decodeTableWord (nbits w : Nat) : Option Instr :=
  match decodeBits Config.initial false nbits w with
  | .ok i => some i
  | .error _ => none

/-! ### The encoder -/

/-- The word of an instruction, from R80 to R86 and the match and mask columns of opcode_table.json. -/
def encode (c : Config) : Instr → InputWord
  | .lit ch off => .token (tokenWord ch 0 off)
  | .badLen1 ch off => .token (tokenWord ch 1 off)
  | .badLen23 x ch off => .token (tokenWord ch ((1 : BitVec 7) ++ x) off)
  | .matchZeroOff ch raw => .token (tokenWord ch raw 0)
  | .matchTok ch raw off => .token (tokenWord ch raw off)
  | .matchOvf ch raw off => .token (tokenWord ch raw off)
  | .endDesc => .desc 0
  | .litOnly L => .desc (pack L 0 0)
  | .ovfSent L => .desc (pack L c.ovfSentinel c.ovfSentinel)
  | .matchSeq L ML OFF => .desc (pack L ML OFF)
  | .start n => .command n

end Sys2Proof
end

