-- ==== Sys2Proof/Machine/State.lean ====
section
/-! DEFINITION. The state of one lane (R21), of its host agents (R20), and of the interleaving, as plain data; the reasons a
step stops; the state after reset. -/

namespace Sys2Proof.Machine

/-- The values of `div.st` (10_state.md R22), DIV's program counter. -/
inductive DivState where
  /-- `DIV_IDLE` -/
  | idle
  /-- `DIV_READ_TOKEN` -/
  | readToken
  /-- `DIV_FLUSH` -/
  | flush
  /-- `DIV_EMIT_END` -/
  | emitEnd
  /-- `DIV_DONE` -/
  | done
  /-- `DIV_FAULT` -/
  | fault
deriving DecidableEq, Repr

/-- The values of `enc.st` (10_state.md R29), ENC's program counter. -/
inductive EncState where
  /-- `ENC_IDLE` -/
  | idle
  /-- `ENC_EMPTY_SIZE` -/
  | emptySize
  /-- `ENC_EMPTY_TERM` -/
  | emptyTerm
  /-- `ENC_EMPTY_DISCARD` -/
  | emptyDiscard
  /-- `READ_DESCRIPTOR` -/
  | readDescriptor
  /-- `EMIT_TOKEN_BYTE` -/
  | emitTokenByte
  /-- `EMIT_LIT_LEN_EXT` -/
  | emitLitLenExt
  /-- `EMIT_LITERAL_BYTES` -/
  | emitLiteralBytes
  /-- `EMIT_OFFSET_LOW` -/
  | emitOffsetLow
  /-- `EMIT_OFFSET_HIGH` -/
  | emitOffsetHigh
  /-- `EMIT_MATCH_LEN_EXT` -/
  | emitMatchLenExt
  /-- `ENC_WRITE_SIZE` -/
  | writeSize
  /-- `ENC_DONE` -/
  | done
  /-- `ENC_FAULT` -/
  | fault
deriving DecidableEq, Repr

/-- The model faults of 60_exceptions.md R262: kind and info recorded in `div.fault` or `enc.fault`. They are data of a next
state, not a stop of the machine (R263: only the faulted unit stops). -/
inductive ModelFault where
  /-- DIV, R120: START with n above MAX_BLOCK. -/
  | blockTooLong (n : Word)
  /-- DIV, R124: RAW_LEN in 1 to 3; the token and `div.pos`. -/
  | badMatchLength (t : Word) (pos : Word)
  /-- DIV, R124: RAW_LEN at least 4 and OFFSET 0; the token and `div.pos`. -/
  | zeroOffset (t : Word) (pos : Word)
  /-- DIV, R124: a match past the block's end; the token, `div.pos`, `div.n`. -/
  | overshoot (t : Word) (pos : Word) (n : Word)
  /-- ENC, R163: a word other than END for an empty block; the word. -/
  | emptyNotSentinel (d : DWord)
  /-- ENC, R181: `enc.size` would pass 2^32 - 1; the FSM state. -/
  | sizeOverflow (st : EncState)
deriving DecidableEq, Repr

/-- The MatchDivider's registers (10_state.md R22 to R26, R28). -/
structure Divider where
  /-- `div.st` (R22) -/
  st : DivState
  /-- `div.n` (R23) -/
  n : Word
  /-- `div.pos` (R24) -/
  pos : Word
  /-- `div.litCount` (R25) -/
  litCount : Word
  /-- `div.ovf` (R26) -/
  ovf : Bool
  /-- `div.fault` (R28) -/
  fault : Option ModelFault
deriving DecidableEq, Repr

/-- The TokenEncoder's registers (10_state.md R29 to R35). -/
structure Encoder where
  /-- `enc.st` (R29) -/
  st : EncState
  /-- `enc.n` (R30) -/
  n : Word
  /-- `enc.L` (R31) -/
  L : Word
  /-- `enc.ML` (R31) -/
  ML : Half
  /-- `enc.OFF` (R31) -/
  OFF : Half
  /-- `enc.rem` (R32) -/
  rem : Word
  /-- `enc.litLeft` (R33) -/
  litLeft : Word
  /-- `enc.size` (R34) -/
  size : Word
  /-- `enc.fault` (R35) -/
  fault : Option ModelFault
deriving DecidableEq, Repr

/-- The memory of the machine: the five FIFO channels (R36; R3 and D1: the channels play the role of memory, and there is no
addressed memory, R60). Each list is the elements in the channel, head first. notes/assumptions/1.md. -/
structure Memory where
  /-- TOK, u32 MatchTokens from the host to DIV -/
  tok : List Word
  /-- LIT, u8 literal bytes from DIV to ENC -/
  lit : List Byte
  /-- DESC, u64 Descriptors from DIV to ENC -/
  desc : List DWord
  /-- OUT, u8 compressed bytes from ENC to the host -/
  out : List Byte
  /-- SIZE, u32 compressed sizes from ENC to the host -/
  size : List Word
deriving DecidableEq, Repr

/-- What the host's controller may do (R20, R223, R225, R233, R290). -/
inductive Command where
  /-- START(n) (R223) -/
  | start (n : Word)
  /-- a change of MAX_LIT_COUNT (R223) -/
  | setMaxLitCount (m : Word)
  /-- a read of OVF_FLAG (R225) -/
  | readFlag
  /-- reset of the lane (R290). notes/assumptions/16.md -/
  | reset
deriving DecidableEq, Repr

/-- The host's side of the lane (R20, 42_pipeline_and_host.md): what each host agent is still to do and what it has taken.
Model's own fields; DESIGN CHOICE, safe, notes/assumptions/2.md and 11.md. -/
structure Environment where
  /-- tokens the TOK producer is still to push, oldest first -/
  toks : List Word
  /-- commands the controller is still to give, oldest first -/
  cmds : List Command
  /-- harness only (R85): words to push on DESC -/
  descs : List DWord
  /-- harness only (R85): bytes to push on LIT -/
  lits : List Byte
  /-- OUT bytes taken so far, in order -/
  outTaken : List Byte
  /-- SIZE elements taken so far, in order -/
  sizesTaken : List Word
  /-- OVF_FLAG values read so far, in order -/
  flagsTaken : List Bool
  /-- R223: the host has read the previous block's OVF_FLAG, or there is no previous block -/
  flagRead : Bool
deriving DecidableEq, Repr

/-- The agents of R20, one per channel end the host owns, and the two drivers of a harness that drives ENC alone (R85). -/
inductive Agent where
  /-- the MatchDivider -/
  | div
  /-- the TokenEncoder -/
  | enc
  /-- the host's TOK producer -/
  | tokProducer
  /-- the host's OUT consumer -/
  | outConsumer
  /-- the host's SIZE consumer -/
  | sizeConsumer
  /-- the host's issuer of START and configuration and reader of OVF_FLAG -/
  | controller
  /-- harness only: pushes DESC words -/
  | descDriver
  /-- harness only: pushes LIT bytes -/
  | litDriver
deriving DecidableEq, Repr

/-- The whole state. -/
structure State where
  /-- DIV's registers -/
  div : Divider
  /-- `OVF_FLAG` (R27) -/
  ovfFlag : Bool
  /-- ENC's registers -/
  enc : Encoder
  /-- the channels (R36) -/
  mem : Memory
  /-- the parameters (R6, R37) -/
  cfg : Config
  /-- the host agents (R20) -/
  env : Environment
  /-- whose turn the next steps are, as far as that is fixed (R69). Model's own field, notes/assumptions/2.md -/
  agenda : List Agent
  /-- counter of the free choices made so far. Model's own field, notes/assumptions/2.md -/
  tick : Nat
deriving DecidableEq, Repr

/-- Reasons a step stops with a fault: NONE. The hardware raises no exception, trap or error signal (R260), being stuck is no
fault (R264), and a model fault of R262 is a next state of the machine in which one unit is in its fault state (R263). Nobody
raises a value of this type. Safe: a step never stops so. notes/assumptions/6.md. -/
inductive Fault where
deriving DecidableEq, Repr

/-- Reasons a step is refused (R10: a host action the protocol does not allow). -/
inductive Refusal where
  /-- Raised by exec's arm of an instruction that has no meaning yet. Safe. -/
  | notModelled (mnemonic : String)
  /-- Raised by START while a unit is neither idle nor done, or before the previous block's SIZE element is taken and its
  OVF_FLAG read (R223, U19). Safe: the spec refuses the command. notes/assumptions/4.md -/
  | startNotAllowed
  /-- Raised by a change of MAX_LIT_COUNT under the same condition (R37, R223). Safe. -/
  | configNotAllowed
  /-- Raised by setting MAX_LIT_COUNT to 0 (R233, U18). Safe. -/
  | maxLitCountZero
  /-- The configuration error of R233: raised by constructing a lane, or the lanes, with a malformed configuration, and by START
  in a lane that has one (R292: the check comes before any block starts). Safe. notes/assumptions/26.md -/
  | configMalformed
deriving DecidableEq, Repr

/-- DIV after reset (R290). -/
def Divider.reset : Divider where
  st := .idle
  n := 0
  pos := 0
  litCount := 0
  ovf := false
  fault := none

/-- ENC after reset (R290). -/
def Encoder.reset : Encoder where
  st := .idle
  n := 0
  L := 0
  ML := 0
  OFF := 0
  rem := 0
  litLeft := 0
  size := 0
  fault := none

/-- The channels after reset: empty (R290). -/
def Memory.reset : Memory where
  tok := []
  lit := []
  desc := []
  out := []
  size := []

/-- A host that has nothing to do and has taken nothing; there is no previous block. DESIGN CHOICE, notes/assumptions/11.md. -/
def Environment.quiet : Environment where
  toks := []
  cmds := []
  descs := []
  lits := []
  outTaken := []
  sizesTaken := []
  flagsTaken := []
  flagRead := true

/-- The machine after reset under the parameters `c` (R290; MAX_LIT_COUNT is configuration, not reset state). -/
def State.resetWith (c : Config) : State where
  div := Divider.reset
  ovfFlag := false
  enc := Encoder.reset
  mem := Memory.reset
  cfg := c
  env := Environment.quiet
  agenda := []
  tick := 0

/-- The machine right after reset, with the parameters of R6 (Config.initial). -/
def State.reset : State := State.resetWith Config.initial

end Sys2Proof.Machine
end

