-- ==== Sys2Proof/Machine/Operands.lean ====
section
/-! DEFINITION. What the units compute from their operands: the covered length of a token, the descriptor's match length,
the token byte, the length extension code, the offset's bytes, and the record format with its reader (30_encoding.md). -/

namespace Sys2Proof.Machine

/-- R122, R84: matchLength = RAW_LEN - 4, as 16 bits. -/
def matchLengthOf (raw : Byte) : Half := raw.setWidth 16 - BitVec.ofNat 16 minMatch

/-- R122: `zext_32(raw)`, the bytes a match covers. -/
def matchCover (raw : Byte) : Word := raw.setWidth 32

/-- R87: a 4-bit length code, `min(v, 15)`. -/
def nibble (v : Nat) : BitVec 4 := BitVec.ofNat 4 (min v nibbleMax)

/-- R87: the token byte, literal code in bits [7:4] and match code in bits [3:0]. -/
def tokenByte (L : Word) (ML : Half) : Byte := nibble L.toNat ++ nibble ML.toNat

/-- R88: `LenExt(v)`. -/
def lenExt (v : Nat) : List Byte :=
  List.replicate (v / extUnit) (BitVec.ofNat 8 extUnit) ++ [BitVec.ofNat 8 (v % extUnit)]

/-- R90: `ext(x)`, the extension bytes of a length field. -/
def ext (x : Nat) : List Byte := if nibbleMax ≤ x then lenExt (x - nibbleMax) else []

/-- R62, R169: the offset byte written first. -/
def offsetLow (OFF : Half) : Byte := OFF.extractLsb' 0 8

/-- R62, R170: the offset byte written second. -/
def offsetHigh (OFF : Half) : Byte := OFF.extractLsb' 8 8

/-- R90, R166: a record without offset and match length. -/
def isLiteralOnly (ML OFF : Half) : Bool := decide (ML = 0 ∧ OFF = 0)

/-- R90: the match part of a record. -/
def matchPart (ML OFF : Half) : List Byte :=
  if isLiteralOnly ML OFF then [] else [offsetLow OFF, offsetHigh OFF] ++ ext ML.toNat

/-- R90: `Record(L, ML, OFF)` with its literal bytes `lits`. -/
def record (L : Word) (ML OFF : Half) (lits : List Byte) : List Byte :=
  [tokenByte L ML] ++ ext L.toNat ++ lits ++ matchPart ML OFF

/-- R92: the record's length. -/
def recordLength (L : Word) (ML OFF : Half) : Nat :=
  1 + (ext L.toNat).length + L.toNat + (if isLiteralOnly ML OFF then 0 else 2 + (ext ML.toNat).length)

/-! ### The reader's walk of a record (R92) -/

/-- R92 step 1: add each following byte up to and with the first below 255; the sum and the rest. -/
def readExt : List Byte → Option (Nat × List Byte)
  | [] => none
  | b :: rest =>
    if b.toNat < extUnit then some (b.toNat, rest)
    else match readExt rest with
      | some (v, after) => some (extUnit + v, after)
      | none => none

/-- R92 steps 1 and 4: the length that a 4-bit code and the bytes after it give. -/
def readLength (code : Nat) (bytes : List Byte) : Option (Nat × List Byte) :=
  if code < nibbleMax then some (code, bytes)
  else match readExt bytes with
    | some (v, rest) => some (nibbleMax + v, rest)
    | none => none

/-- What a reader finds in a record: the literal bytes and, unless it is literal-only, match length code and offset. -/
structure RecordRead where
  lits : List Byte
  tail : Option (Nat × Nat)
deriving DecidableEq, Repr

/-- R92 steps 3 and 4: nothing left of the block is a literal-only record; else two offset bytes and a match length. -/
def readMatchPart (matchCode : Nat) (lits : List Byte) : List Byte → Option (RecordRead × List Byte)
  | [] => some (⟨lits, none⟩, [])
  | [_] => none
  | lo :: hi :: rest =>
    match readLength matchCode rest with
    | some (ml, after) => some (⟨lits, some (ml, lo.toNat + 256 * hi.toNat)⟩, after)
    | none => none

/-- R92: one record off the front of the rest of a block's bytes, and what follows it. -/
def readRecord : List Byte → Option (RecordRead × List Byte)
  | [] => none
  | t :: bytes =>
    match readLength (t.toNat / 16) bytes with
    | some (L, rest) =>
      if rest.length < L then none else readMatchPart (t.toNat % 16) (rest.take L) (rest.drop L)
    | none => none

end Sys2Proof.Machine
end

