-- ==== Sys2Proof/Machine/Ops.lean ====
section
/-! DEFINITION. The named operations over channels and registers (00_scope.md R9, 20_memory.md R61), and entering a unit's
fault state as one operation (60_exceptions.md R262). -/

namespace Sys2Proof.Machine

/-! ### Register files -/

def State.withDiv (s : State) (d : Divider) : State := { s with div := d }
def State.withEnc (s : State) (e : Encoder) : State := { s with enc := e }
def State.withMem (s : State) (m : Memory) : State := { s with mem := m }
def State.withFlag (s : State) (b : Bool) : State := { s with ovfFlag := b }
def State.withCfg (s : State) (c : Config) : State := { s with cfg := c }
def State.withEnv (s : State) (e : Environment) : State := { s with env := e }
def State.withAgenda (s : State) (a : List Agent) : State := { s with agenda := a }
def State.withTick (s : State) (n : Nat) : State := { s with tick := n }

/-! ### Channels (R61): Push appends at the tail, Pop removes the head -/

def Memory.pushTok (m : Memory) (w : Word) : Memory := { m with tok := m.tok ++ [w] }
def Memory.pushLit (m : Memory) (b : Byte) : Memory := { m with lit := m.lit ++ [b] }
def Memory.pushDesc (m : Memory) (d : DWord) : Memory := { m with desc := m.desc ++ [d] }
def Memory.pushOut (m : Memory) (b : Byte) : Memory := { m with out := m.out ++ [b] }
def Memory.pushSize (m : Memory) (n : Word) : Memory := { m with size := m.size ++ [n] }
def Memory.popTok (m : Memory) : Memory := { m with tok := m.tok.tail }
def Memory.popLit (m : Memory) : Memory := { m with lit := m.lit.tail }
def Memory.popDesc (m : Memory) : Memory := { m with desc := m.desc.tail }
def Memory.popOut (m : Memory) : Memory := { m with out := m.out.tail }
def Memory.popSize (m : Memory) : Memory := { m with size := m.size.tail }

/-- The canonical form of memory (R61): no channel holds more elements than its capacity. -/
def Memory.wf (c : Config) (m : Memory) : Bool :=
  decide (m.tok.length ≤ c.tokDepth) && decide (m.lit.length ≤ c.litDepth) && decide (m.desc.length ≤ c.descDepth) &&
    decide (m.out.length ≤ c.outDepth) && decide (m.size.length ≤ c.sizeDepth)

/-! R61: Push is enabled only when the occupancy is below the capacity. -/

def State.tokRoom (s : State) : Bool := decide (s.mem.tok.length < s.cfg.tokDepth)
def State.litRoom (s : State) : Bool := decide (s.mem.lit.length < s.cfg.litDepth)
def State.descRoom (s : State) : Bool := decide (s.mem.desc.length < s.cfg.descDepth)
def State.outRoom (s : State) : Bool := decide (s.mem.out.length < s.cfg.outDepth)
def State.sizeRoom (s : State) : Bool := decide (s.mem.size.length < s.cfg.sizeDepth)

/-! ### Steps -/

/-- A step of a unit under its enabling condition (R10): it fires, or the unit is stuck and its turn changes nothing (R264).
DEDUCED, safe: notes/assumptions/3.md. -/
def fire (ready : Bool) (after before : State) : Host.Outcome State Fault Refusal :=
  .next (if ready then after else before)

/-- R262: DIV enters its fault state and records kind and info. -/
def raiseDiv (f : ModelFault) (s : State) : State :=
  s.withDiv { s.div with st := .fault, fault := some f }

/-- R262: ENC enters its fault state and records kind and info. -/
def raiseEnc (f : ModelFault) (s : State) : State :=
  s.withEnc { s.enc with st := .fault, fault := some f }

/-- The part common to the enabling conditions of R121 to R124: `div.st = DIV_READ_TOKEN`, TOK non-empty and its head is
this word. -/
def tokenAtHead (w : Word) (s : State) : Bool :=
  decide (s.div.st = .readToken) && decide (s.mem.tok.head? = some w)

/-- The part common to the enabling conditions of R163 and R164: DESC non-empty and its head is this word. -/
def descAtHead (d : DWord) (s : State) : Bool := decide (s.mem.desc.head? = some d)

/-- R124: pop the token, then raise. -/
def tokenFault (f : ModelFault) (s : State) : State := raiseDiv f (s.withMem s.mem.popTok)

/-- Emit one byte of a record: push it on OUT and count it (R165, R167 to R171), the channels otherwise `m` and ENC's other
registers `e`. If the count would pass 2^32 - 1, raise SizeOverflow instead: no push, no pop, no other write (R181; DEDUCED,
notes/assumptions/8.md). -/
def emit (b : Byte) (m : Memory) (e : Encoder) (s : State) : State :=
  if s.enc.size = BitVec.allOnes 32 then raiseEnc (.sizeOverflow s.enc.st) s
  else (s.withMem (m.pushOut b)).withEnc { e with size := s.enc.size + 1 }

end Sys2Proof.Machine
end

