-- ==== Sys2Proof/Machine/Flags.lean ====
section
/-! DEFINITION. The conditions and updates of the overflow flags `div.ovf` and `OVF_FLAG` (10_state.md R26, R27, R38: the
only condition codes), and the two other tests a token step makes. -/

namespace Sys2Proof.Machine

/-- R123, R265: the literal count has reached the ceiling, `div.litCount >= MAX_LIT_COUNT`. -/
def atCeiling (s : State) : Bool := decide (s.cfg.maxLitCount.toNat ≤ s.div.litCount.toNat)

/-- R128: the trailing run is exactly the ceiling long. -/
def trailingAtCeiling (s : State) : Bool := decide (s.div.litCount = s.cfg.maxLitCount)

/-- R124: `div.pos + raw > div.n`, as exact naturals (DEDUCED, notes/assumptions/20.md). -/
def overshoots (raw : Byte) (s : State) : Bool := decide (s.div.n.toNat < s.div.pos.toNat + raw.toNat)

/-- R125: the end-of-walk test on the updated position. -/
def walkEnd (n pos : Word) : DivState := if pos = n then .flush else .readToken

/-- R27, R129: publish the tracked flag. -/
def publishFlag (s : State) : State := s.withFlag s.div.ovf

end Sys2Proof.Machine
end

