-- ==== Sys2Proof/Machine/Divider.lean ====
section
/-! DEFINITION. The MatchDivider's steps (40_divider.md R121 to R129): a meaning per token row, and the steps of the states
in which no word is read. -/

namespace Sys2Proof.Machine

/-! ### Token steps (state DIV_READ_TOKEN) -/

/-- R121. -/
def litEffect (ch : Byte) (s : State) : State :=
  (s.withMem (s.mem.popTok.pushLit ch)).withDiv
    { s.div with
      litCount := s.div.litCount + 1
      pos := s.div.pos + 1
      st := walkEnd s.div.n (s.div.pos + 1) }

/-- LIT (R121): no ceiling check is made on a literal (C3). -/
def execLit (ch : Byte) (off : Half) (s : State) : Host.Outcome State Fault Refusal :=
  fire (tokenAtHead (tokenWord ch 0 off) s && s.litRoom) (litEffect ch s) s

/-- A reserved length, RAW_LEN in 1 to 3 (R124): pop and raise BadMatchLength. -/
def badLength (w : Word) (s : State) : Host.Outcome State Fault Refusal :=
  fire (tokenAtHead w s) (tokenFault (.badMatchLength w s.div.pos) s) s

/-- BADLEN_1 (R124). -/
def execBadLen1 (ch : Byte) (off : Half) (s : State) : Host.Outcome State Fault Refusal :=
  badLength (tokenWord ch 1 off) s

/-- BADLEN_2_3 (R124). -/
def execBadLen23 (x : BitVec 1) (ch : Byte) (off : Half) (s : State) : Host.Outcome State Fault Refusal :=
  badLength (tokenWord ch ((1 : BitVec 7) ++ x) off) s

/-- MATCH_ZERO_OFF (R124): pop and raise ZeroOffset, tested before the overshoot (R265). -/
def execMatchZeroOff (ch raw : Byte) (s : State) : Host.Outcome State Fault Refusal :=
  fire (tokenAtHead (tokenWord ch raw 0) s) (tokenFault (.zeroOffset (tokenWord ch raw 0) s.div.pos) s) s

/-- R124, third check: pop and raise Overshoot. -/
def overshootEffect (w : Word) (s : State) : State :=
  tokenFault (.overshoot w s.div.pos s.div.n) s

/-- R122. -/
def matchEffect (raw : Byte) (off : Half) (s : State) : State :=
  (s.withMem (s.mem.popTok.pushDesc (pack s.div.litCount (matchLengthOf raw) off))).withDiv
    { s.div with
      litCount := 0
      pos := s.div.pos + matchCover raw
      st := walkEnd s.div.n (s.div.pos + matchCover raw) }

/-- MATCH (R122; Overshoot by R124 comes first, R265). At the ceiling the word is MATCH_OVF's and this rule is not enabled. -/
def execMatchTok (ch raw : Byte) (off : Half) (s : State) : Host.Outcome State Fault Refusal :=
  if overshoots raw s then
    fire (tokenAtHead (tokenWord ch raw off) s) (overshootEffect (tokenWord ch raw off) s) s
  else
    fire (tokenAtHead (tokenWord ch raw off) s && !atCeiling s && s.descRoom) (matchEffect raw off s) s

/-- R123: no push, and the literal count is kept. -/
def matchOvfEffect (raw : Byte) (s : State) : State :=
  (s.withMem s.mem.popTok).withDiv
    { s.div with
      ovf := true
      pos := s.div.pos + matchCover raw
      st := walkEnd s.div.n (s.div.pos + matchCover raw) }

/-- MATCH_OVF (R123; Overshoot by R124 comes first, R265). It needs no room in DESC. -/
def execMatchOvf (ch raw : Byte) (off : Half) (s : State) : Host.Outcome State Fault Refusal :=
  if overshoots raw s then
    fire (tokenAtHead (tokenWord ch raw off) s) (overshootEffect (tokenWord ch raw off) s) s
  else
    fire (tokenAtHead (tokenWord ch raw off) s && atCeiling s) (matchOvfEffect raw s) s

/-! ### Flush and end (states DIV_FLUSH, DIV_EMIT_END) -/

/-- R126: nothing to flush. -/
def flushNone (s : State) : State := s.withDiv { s.div with st := .emitEnd }

/-- R127: a LITONLY descriptor for the trailing run. -/
def flushTrail (s : State) : State :=
  (s.withMem (s.mem.pushDesc (pack s.div.litCount 0 0))).withDiv { s.div with st := .emitEnd }

/-- R128: an OVFSENT descriptor for a trailing run of exactly the ceiling. -/
def flushOvf (s : State) : State :=
  (s.withMem (s.mem.pushDesc (pack s.div.litCount s.cfg.ovfSentinel s.cfg.ovfSentinel))).withDiv
    { s.div with ovf := true, st := .emitEnd }

/-- Which of R126, R128, R127 applies; they exclude each other (R265, with MAX_LIT_COUNT at least 1). -/
def flushEffect (s : State) : State :=
  if s.div.litCount = 0 then flushNone s
  else if trailingAtCeiling s then flushOvf s
  else flushTrail s

/-- R126 pushes nothing and is always enabled; R127 and R128 need room in DESC. -/
def flushReady (s : State) : Bool := decide (s.div.litCount = 0) || s.descRoom

/-- R129: the end sentinel and the published flag. -/
def emitEndEffect (s : State) : State :=
  (publishFlag (s.withMem (s.mem.pushDesc 0))).withDiv { s.div with st := .done }

/-! ### Block start -/

/-- DIV.START(n) (R120). `raise` ends the step, so n, pos, litCount and ovf keep their values (DEDUCED,
notes/assumptions/7.md). -/
def divStart (n : Word) (d : Divider) : Divider :=
  if maxBlock < n.toNat then { d with st := .fault, fault := some (.blockTooLong n) }
  else
    { d with
      n := n
      pos := 0
      litCount := 0
      ovf := false
      st := if n = 0 then .emitEnd else .readToken }

/-! ### What can fire -/

/-- The enabling condition of a token's rule beyond the token being at the head of TOK (R121 to R124). -/
def tokenReady (s : State) : Instr → Bool
  | .lit _ _ => s.litRoom
  | .badLen1 _ _ => true
  | .badLen23 _ _ _ => true
  | .matchZeroOff _ _ => true
  | .matchTok _ raw _ => overshoots raw s || (!atCeiling s && s.descRoom)
  | .matchOvf _ raw _ => overshoots raw s || atCeiling s
  | .endDesc => false
  | .litOnly _ => false
  | .ovfSent _ => false
  | .matchSeq _ _ _ => false
  | .start _ => false

/-- DIV's one enabled step exists (R266). -/
def divReady (s : State) : Bool :=
  match s.div.st with
  | .idle => false
  | .readToken =>
    match s.mem.tok with
    | [] => false
    | w :: _ => tokenReady s (decodeToken (atCeiling s) w)
  | .flush => flushReady s
  | .emitEnd => s.descRoom
  | .done => false
  | .fault => false

end Sys2Proof.Machine
end

