-- ==== Sys2Proof/Machine/Encoder.lean ====
section
/-! DEFINITION. The TokenEncoder's steps (41_encoder.md R160 to R173, R181): a meaning per descriptor row, which is the step
that takes the word off DESC, and the FSM's steps that emit the record. One OUT byte per step (D13). -/

namespace Sys2Proof.Machine

/-! ### Taking a descriptor (states READ_DESCRIPTOR and ENC_EMPTY_DISCARD) -/

/-- R164 for END: to ENC_WRITE_SIZE; L, ML and OFF are kept. -/
def endEffect (s : State) : State :=
  (s.withMem s.mem.popDesc).withEnc { s.enc with st := .writeSize }

/-- R163 for END: the empty block is finished. -/
def discardEffect (s : State) : State :=
  (s.withMem s.mem.popDesc).withEnc { s.enc with st := .done }

/-- R164 for a word other than END: latch the fields. -/
def latchEffect (L : Word) (ML OFF : Half) (s : State) : State :=
  (s.withMem s.mem.popDesc).withEnc { s.enc with L := L, ML := ML, OFF := OFF, st := .emitTokenByte }

/-- R163 for a word other than END: pop and raise EmptyNotSentinel. -/
def notSentinelEffect (d : DWord) (s : State) : State :=
  raiseEnc (.emptyNotSentinel d) (s.withMem s.mem.popDesc)

/-- END (R164, R163). -/
def execEndDesc (s : State) : Host.Outcome State Fault Refusal :=
  match s.enc.st with
  | .readDescriptor => fire (descAtHead 0 s) (endEffect s) s
  | .emptyDiscard => fire (descAtHead 0 s) (discardEffect s) s
  | _ => .next s

/-- The step a descriptor other than END starts (R164; R163 where an empty block's END was expected). -/
def takeDescriptor (L : Word) (ML OFF : Half) (s : State) : Host.Outcome State Fault Refusal :=
  match s.enc.st with
  | .readDescriptor => fire (descAtHead (pack L ML OFF) s) (latchEffect L ML OFF s) s
  | .emptyDiscard => fire (descAtHead (pack L ML OFF) s) (notSentinelEffect (pack L ML OFF) s) s
  | _ => .next s

/-- LITONLY (R164, R166): the record it starts has no offset and no match length, because ML = OFF = 0 are latched. -/
def execLitOnly (L : Word) (s : State) : Host.Outcome State Fault Refusal := takeDescriptor L 0 0 s

/-- OVFSENT (R164, R176): no special treatment, the sentinel is latched as match length and offset. -/
def execOvfSent (L : Word) (s : State) : Host.Outcome State Fault Refusal :=
  takeDescriptor L s.cfg.ovfSentinel s.cfg.ovfSentinel s

/-- MATCHSEQ (R164, R165, R180: the fields are not validated). -/
def execMatchSeq (L : Word) (ML OFF : Half) (s : State) : Host.Outcome State Fault Refusal := takeDescriptor L ML OFF s

/-! ### The empty block -/

/-- R161. -/
def emptySizeEffect (s : State) : State :=
  (s.withMem (s.mem.pushSize 0)).withEnc { s.enc with st := .emptyTerm }

/-- R162: the terminator byte is not counted in `enc.size`. -/
def emptyTermEffect (s : State) : State :=
  (s.withMem (s.mem.pushOut s.cfg.terminatorByte)).withEnc { s.enc with st := .emptyDiscard }

/-! ### Emitting a record -/

/-- R166: AfterLiterals(), the choice when a record's literal part is complete. -/
def afterLiterals (e : Encoder) : EncState :=
  if isLiteralOnly e.ML e.OFF then .readDescriptor else .emitOffsetLow

/-- R165: ENC's registers after the token byte. -/
def afterTokenByte (e : Encoder) : Encoder :=
  if nibbleMax ≤ e.L.toNat then { e with rem := e.L - BitVec.ofNat 32 nibbleMax, st := .emitLitLenExt }
  else if 0 < e.L.toNat then { e with litLeft := e.L, st := .emitLiteralBytes }
  else { e with st := afterLiterals e }

/-- R165. -/
def tokenByteEffect (s : State) : State :=
  emit (tokenByte s.enc.L s.enc.ML) s.mem (afterTokenByte s.enc) s

/-- R167, R171: one extension byte; 255 while the remainder is at least 255, then the remainder and the registers `last`. -/
def extByteEffect (last : Encoder) (s : State) : State :=
  if extUnit ≤ s.enc.rem.toNat then
    emit (BitVec.ofNat 8 extUnit) s.mem { s.enc with rem := s.enc.rem - BitVec.ofNat 32 extUnit } s
  else emit (s.enc.rem.setWidth 8) s.mem last s

/-- R167. -/
def litLenExtEffect (s : State) : State :=
  extByteEffect { s.enc with litLeft := s.enc.L, st := .emitLiteralBytes } s

/-- R168: ENC's registers after one literal byte. -/
def afterLiteralByte (e : Encoder) : Encoder :=
  { e with
    litLeft := e.litLeft - 1
    st := if e.litLeft - 1 = 0 then afterLiterals e else .emitLiteralBytes }

/-- R168: copy the head of LIT to OUT unchanged. -/
def literalByteEffect (s : State) : State :=
  match s.mem.lit with
  | [] => s
  | b :: _ => emit b s.mem.popLit (afterLiteralByte s.enc) s

/-- R169. -/
def offsetLowEffect (s : State) : State :=
  emit (offsetLow s.enc.OFF) s.mem { s.enc with st := .emitOffsetHigh } s

/-- R170: ENC's registers after the high offset byte. -/
def afterOffsetHigh (e : Encoder) : Encoder :=
  if nibbleMax ≤ e.ML.toNat then { e with rem := e.ML.setWidth 32 - BitVec.ofNat 32 nibbleMax, st := .emitMatchLenExt }
  else { e with st := .readDescriptor }

/-- R170. -/
def offsetHighEffect (s : State) : State :=
  emit (offsetHigh s.enc.OFF) s.mem (afterOffsetHigh s.enc) s

/-- R171: the final byte leaves `enc.rem` as it is (95_test_vectors.md V-ENC-15). -/
def matchLenExtEffect (s : State) : State :=
  extByteEffect { s.enc with st := .readDescriptor } s

/-- R172. -/
def writeSizeEffect (s : State) : State :=
  (s.withMem (s.mem.pushSize s.enc.size)).withEnc { s.enc with st := .done }

/-! ### Block start -/

/-- ENC.START(n) (R160): n is read only for the zero test. -/
def encStart (n : Word) (e : Encoder) : Encoder :=
  { e with
    n := n
    size := 0
    st := if n = 0 then .emptySize else .readDescriptor }

/-! ### What can fire -/

/-- ENC's one enabled step exists (R266). -/
def encReady (s : State) : Bool :=
  match s.enc.st with
  | .idle => false
  | .emptySize => s.sizeRoom
  | .emptyTerm => s.outRoom
  | .emptyDiscard => !s.mem.desc.isEmpty
  | .readDescriptor => !s.mem.desc.isEmpty
  | .emitTokenByte => s.outRoom
  | .emitLitLenExt => s.outRoom
  | .emitLiteralBytes => !s.mem.lit.isEmpty && s.outRoom
  | .emitOffsetLow => s.outRoom
  | .emitOffsetHigh => s.outRoom
  | .emitMatchLenExt => s.outRoom
  | .writeSize => s.sizeRoom
  | .done => false
  | .fault => false

end Sys2Proof.Machine
end

