-- ==== Sys2Proof/Machine/Scheduler.lean ====
section
/-! DEFINITION. The scheduler's use of the lane (42_pipeline_and_host.md R224, R227 to R233), as functions of the host. -/

namespace Sys2Proof.Machine

/-- R227: number of blocks, ceil(inputSize / 65536). -/
def numBlocks (inputSize : Nat) : Nat := (inputSize + (maxBlock - 1)) / maxBlock

/-- R227: the length of block `i`; the last block may be shorter. -/
def blockLength (inputSize i : Nat) : Nat := min maxBlock (inputSize - i * maxBlock)

/-- R231: block `i`'s input and output slot begin at this byte. -/
def slotBase (i : Nat) : Nat := i * maxBlock

/-- R228: the block bypasses the pipeline and gets no START. -/
def isSmall (c : Config) (len : Nat) : Bool := decide (len < c.minBlockSize)

/-- R228: the blocks that are dispatched to a lane, in block order. -/
def dispatched (c : Config) (inputSize : Nat) : List Nat :=
  (List.range (numBlocks inputSize)).filter fun i => !isSmall c (blockLength inputSize i)

/-- R232: the batch a block belongs to; a batch is `LANES` consecutive blocks (95_test_vectors.md V-H-8). With `LANES` 0, for
which the spec says nothing, every block is put in batch 0: DESIGN CHOICE, notes/assumptions/27.md. -/
def batchOf (c : Config) (i : Nat) : Nat := i / c.lanes

/-- R229: the stored size of a block, in priority order: small, overflow, the encoder's reported size. -/
def resolvedSize (c : Config) (len : Nat) (ovfFlag : Bool) (reported : Word) : Nat :=
  if isSmall c len then len
  else if ovfFlag then len
  else reported.toNat

/-- What a lane reported for a block: `OVF_FLAG` and the SIZE element (R221). -/
structure BlockReport where
  ovfFlag : Bool
  compressedSize : Word
deriving DecidableEq, Repr

/-- R230: the `perBlockSize` table in block order, from the report of each block (a small block has none, and its entry does
not read it). -/
def perBlockSize (c : Config) (inputSize : Nat) (reports : List BlockReport) : List Nat :=
  (List.range (numBlocks inputSize)).map fun i =>
    let r := reports.getD i ⟨false, 0⟩
    resolvedSize c (blockLength inputSize i) r.ovfFlag r.compressedSize

/-- R224: the block's output off the front of the OUT bytes, and the rest; an empty block's one byte is discarded. -/
def takeBlockOutput (n size : Word) (bytes : List Byte) : List Byte × List Byte :=
  if n = 0 then ([], bytes.drop 1) else (bytes.take size.toNat, bytes.drop size.toNat)

/-- R6, R233: the configuration is accepted before any block starts: MAX_LIT_COUNT and every depth at least 1, and
minBlockSize below blockWindowSize. R233 names MAX_LIT_COUNT and minBlockSize; that a depth outside R6's range is refused by the
same check is DEDUCED, notes/assumptions/26.md. R6 gives `LANES` no range, and every value is accepted, 0 too: DESIGN CHOICE,
notes/assumptions/27.md. -/
def configAccepted (c : Config) : Bool :=
  decide (c.maxLitCount ≠ 0) && decide (c.minBlockSize < maxBlock) && decide (1 ≤ c.tokDepth) &&
    decide (1 ≤ c.litDepth) && decide (1 ≤ c.descDepth) && decide (1 ≤ c.outDepth) && decide (1 ≤ c.sizeDepth)

end Sys2Proof.Machine
end

