-- ==== Sys2Proof/Machine/HostSide.lean ====
section
/-! DEFINITION. The host's construction of a lane, and the host agents' actions (42_pipeline_and_host.md R222 to R225, R233;
70_reset_and_hazards.md R290, R292), the meaning of START among them. -/

namespace Sys2Proof.Machine

/-- R292 steps 1 and 2: a lane is constructed by reset and the check of its configuration; a malformed one fails at once with
the configuration error (R233). -/
def construct (c : Config) : Host.Outcome State Fault Refusal :=
  if configAccepted c then .next (State.resetWith c) else .refused .configMalformed

/-- R223: when START and a change of MAX_LIT_COUNT are allowed. "The host has taken the previous block's SIZE element" is
that SIZE is empty: each block pushes exactly one (DEDUCED, notes/assumptions/5.md). -/
def startAllowed (s : State) : Bool :=
  decide (s.div.st = .idle ∨ s.div.st = .done) && decide (s.enc.st = .idle ∨ s.enc.st = .done) &&
    s.mem.size.isEmpty && s.env.flagRead

/-- R120, R160, R223: both units begin the block in the same step with the same n, and the block's OVF_FLAG is unread. -/
def startEffect (n : Word) (s : State) : State :=
  ((s.withDiv (divStart n s.div)).withEnc (encStart n s.enc)).withEnv { s.env with flagRead := false }

/-- START (R120, R160, R223); a command the protocol does not allow is refused (R10, U19), and so is one under a configuration
that the check before any block starts does not accept (R233, R292; notes/assumptions/26.md). -/
def execStart (n : Word) (s : State) : Host.Outcome State Fault Refusal :=
  if startAllowed s then
    if configAccepted s.cfg then .next (startEffect n s) else .refused .configMalformed
  else .refused .startNotAllowed

/-- A change of MAX_LIT_COUNT (R37, R223; 0 is refused, R233). -/
def setMaxLitCount (m : Word) (s : State) : Host.Outcome State Fault Refusal :=
  if startAllowed s then
    if m = 0 then .refused .maxLitCountZero else .next (s.withCfg { s.cfg with maxLitCount := m })
  else .refused .configNotAllowed

/-- A read of OVF_FLAG. Outside DIV_DONE it gives the stale value and does not count as reading the block's flag (R225, R297,
U20; notes/assumptions/19.md). -/
def readFlag (s : State) : State :=
  s.withEnv
    { s.env with
      flagsTaken := s.env.flagsTaken ++ [s.ovfFlag]
      flagRead := s.env.flagRead || decide (s.div.st = .done) }

/-- Reset of the lane (R290, R263): every register and channel; not the configuration, not the host's data
(notes/assumptions/16.md). -/
def resetLane (s : State) : State :=
  { State.resetWith s.cfg with
    env := { s.env with flagRead := true }
    agenda := s.agenda
    tick := s.tick }

/-- The TOK producer's turn (R222, R61): push the next token, or wait for room. -/
def produceTok (s : State) : State :=
  match s.env.toks with
  | [] => s
  | w :: rest =>
    if s.tokRoom then (s.withMem (s.mem.pushTok w)).withEnv { s.env with toks := rest } else s

/-- The OUT consumer's turn (R224). -/
def consumeOut (s : State) : State :=
  match s.mem.out with
  | [] => s
  | b :: _ => (s.withMem s.mem.popOut).withEnv { s.env with outTaken := s.env.outTaken ++ [b] }

/-- The SIZE consumer's turn (R224). -/
def consumeSize (s : State) : State :=
  match s.mem.size with
  | [] => s
  | n :: _ => (s.withMem s.mem.popSize).withEnv { s.env with sizesTaken := s.env.sizesTaken ++ [n] }

/-- Harness only (R85): push the next DESC word. -/
def driveDesc (s : State) : State :=
  match s.env.descs with
  | [] => s
  | d :: rest =>
    if s.descRoom then (s.withMem (s.mem.pushDesc d)).withEnv { s.env with descs := rest } else s

/-- Harness only (R85): push the next LIT byte. -/
def driveLit (s : State) : State :=
  match s.env.lits with
  | [] => s
  | b :: rest =>
    if s.litRoom then (s.withMem (s.mem.pushLit b)).withEnv { s.env with lits := rest } else s

/-- The next command may be given now. Reading OVF_FLAG waits for DIV_DONE (the host's duty, R225). -/
def commandReady (s : State) : Command → Bool
  | .start _ => startAllowed s && configAccepted s.cfg
  | .setMaxLitCount m => startAllowed s && decide (m ≠ 0)
  | .readFlag => decide (s.div.st = .done)
  | .reset => true

end Sys2Proof.Machine
end

