-- ==== Sys2Proof/Machine/Dispatch.lean ====
section
/-! DEFINITION. One arm per instruction: the call of its meaning. -/

namespace Sys2Proof.Machine

def exec (i : Instr) (s : State) : Host.Outcome State Fault Refusal :=
  match i with
  | .lit ch off => Sys2Proof.Machine.execLit ch off s
  | .badLen1 ch off => Sys2Proof.Machine.execBadLen1 ch off s
  | .badLen23 x ch off => Sys2Proof.Machine.execBadLen23 x ch off s
  | .matchZeroOff ch raw => Sys2Proof.Machine.execMatchZeroOff ch raw s
  | .matchTok ch raw off => Sys2Proof.Machine.execMatchTok ch raw off s
  | .matchOvf ch raw off => Sys2Proof.Machine.execMatchOvf ch raw off s
  | .endDesc => Sys2Proof.Machine.execEndDesc s
  | .litOnly L => Sys2Proof.Machine.execLitOnly L s
  | .ovfSent L => Sys2Proof.Machine.execOvfSent L s
  | .matchSeq L ML OFF => Sys2Proof.Machine.execMatchSeq L ML OFF s
  | .start n => Sys2Proof.Machine.execStart n s

end Sys2Proof.Machine
end

