-- ==== Sys2Proof/Machine/Agents.lean ====
section
/-! DEFINITION. One turn of each agent (10_state.md R20), with the fetch of the two units: a unit in a state that reads a
word decodes the head of its channel and runs it by exec; in every other state its FSM takes the state's own step. -/

namespace Sys2Proof.Machine

/-- The instruction at the head of TOK, read as DIV reads it now (R95, R265). -/
def nextToken (s : State) : Option Instr :=
  s.mem.tok.head?.map (fun w => decode s.cfg (atCeiling s) (.token w))

/-- The instruction at the head of DESC (R86). -/
def nextDesc (s : State) : Option Instr :=
  s.mem.desc.head?.map (fun d => decode s.cfg (atCeiling s) (.desc d))

/-- Run a fetched instruction; with an empty channel the unit waits (R264). -/
def runFetched (i : Option Instr) (s : State) : Host.Outcome State Fault Refusal :=
  match i with
  | some i => exec i s
  | none => .next s

/-- DIV's turn (40_divider.md): no step in DIV_IDLE, DIV_DONE (only START leaves them) or DIV_FAULT (R263). -/
def divTurn (s : State) : Host.Outcome State Fault Refusal :=
  match s.div.st with
  | .idle => .next s
  | .readToken => runFetched (nextToken s) s
  | .flush => fire (flushReady s) (flushEffect s) s
  | .emitEnd => fire s.descRoom (emitEndEffect s) s
  | .done => .next s
  | .fault => .next s

/-- ENC's turn (41_encoder.md, R173). -/
def encTurn (s : State) : Host.Outcome State Fault Refusal :=
  match s.enc.st with
  | .idle => .next s
  | .emptySize => fire s.sizeRoom (emptySizeEffect s) s
  | .emptyTerm => fire s.outRoom (emptyTermEffect s) s
  | .emptyDiscard => runFetched (nextDesc s) s
  | .readDescriptor => runFetched (nextDesc s) s
  | .emitTokenByte => fire s.outRoom (tokenByteEffect s) s
  | .emitLitLenExt => fire s.outRoom (litLenExtEffect s) s
  | .emitLiteralBytes => fire s.outRoom (literalByteEffect s) s
  | .emitOffsetLow => fire s.outRoom (offsetLowEffect s) s
  | .emitOffsetHigh => fire s.outRoom (offsetHighEffect s) s
  | .emitMatchLenExt => fire s.outRoom (matchLenExtEffect s) s
  | .writeSize => fire s.sizeRoom (writeSizeEffect s) s
  | .done => .next s
  | .fault => .next s

/-- Give one command. -/
def runCommand (c : Command) (s : State) : Host.Outcome State Fault Refusal :=
  match c with
  | .start n => exec (.start n) s
  | .setMaxLitCount m => setMaxLitCount m s
  | .readFlag => .next (readFlag s)
  | .reset => .next (resetLane s)

/-- The controller's turn: the next of its commands (R223, R225, R292). -/
def controllerTurn (s : State) : Host.Outcome State Fault Refusal :=
  match s.env.cmds with
  | [] => .next s
  | c :: rest => runCommand c (s.withEnv { s.env with cmds := rest })

/-- One turn of one agent (R20). -/
def act (a : Agent) (s : State) : Host.Outcome State Fault Refusal :=
  match a with
  | .div => divTurn s
  | .enc => encTurn s
  | .tokProducer => .next (produceTok s)
  | .outConsumer => .next (consumeOut s)
  | .sizeConsumer => .next (consumeSize s)
  | .controller => controllerTurn s
  | .descDriver => .next (driveDesc s)
  | .litDriver => .next (driveLit s)

/-- The agent has an enabled step (R20, R266). -/
def agentReady (s : State) : Agent → Bool
  | .div => divReady s
  | .enc => encReady s
  | .tokProducer => !s.env.toks.isEmpty && s.tokRoom
  | .outConsumer => !s.mem.out.isEmpty
  | .sizeConsumer => !s.mem.size.isEmpty
  | .controller =>
    match s.env.cmds with
    | [] => false
    | c :: _ => commandReady s c
  | .descDriver => !s.env.descs.isEmpty && s.descRoom
  | .litDriver => !s.env.lits.isEmpty && s.litRoom

/-- Every agent, once. -/
def allAgents : List Agent :=
  [.div, .enc, .tokProducer, .outConsumer, .sizeConsumer, .controller, .descDriver, .litDriver]

/-- The agents that may step (R20: any enabled agent may step at any time). -/
def readyAgents (s : State) : List Agent := allAgents.filter (agentReady s)

/-- Whose turn it is where the agenda does not fix it, and the state with the choice made: nobody's if no agent is enabled, that
of the one that is, or that of one of several by the free value. DESIGN CHOICE, safe: notes/assumptions/2.md. -/
def freeTurn (s : State) : Option (Agent × State) :=
  match readyAgents s with
  | [] => none
  | [a] => some (a, s)
  | a :: b :: rest =>
    some ((a :: b :: rest).getD (Config.freeChoice s.tick % (rest.length + 2)) a, s.withTick (s.tick + 1))

/-- Whose turn the next step is, and the state with the turn used up: the agent the agenda names, else a free turn. -/
def chosenTurn (s : State) : Option (Agent × State) :=
  match s.agenda with
  | [] => freeTurn s
  | a :: rest => some (a, s.withAgenda rest)

/-- One step of the interleaving (R69). -/
def nextTurn (s : State) : Host.Outcome State Fault Refusal :=
  match chosenTurn s with
  | none => .next s
  | some (a, u) => act a u

/-- The next step is the controller's and its command is a reset. -/
def givesReset (s : State) : Bool :=
  match chosenTurn s with
  | none => false
  | some (a, u) => decide (a = .controller) && decide (u.env.cmds.head? = some .reset)

/-- `k` turns of one agent, the others waiting. -/
def runAgent (a : Agent) : Nat → State → Host.Outcome State Fault Refusal
  | 0, s => .next s
  | k + 1, s =>
    match act a s with
    | .next t => runAgent a k t
    | .fault r => .fault r
    | .refused r => .refused r

/-! ### Placing a word where it is fetched next -/

/-- DIV in DIV_READ_TOKEN: as it is if it reads tokens already, else as START MAX_BLOCK leaves it (R120). -/
def readingDivider (d : Divider) : Divider :=
  if d.st = .readToken then d else divStart (BitVec.ofNat 32 maxBlock) d

/-- ENC in READ_DESCRIPTOR: as it is if it is there already, else as START MAX_BLOCK leaves it (R160). -/
def readingEncoder (e : Encoder) : Encoder :=
  if e.st = .readDescriptor then e else encStart (BitVec.ofNat 32 maxBlock) e

/-- The word as TOK's head, DIV reading, and DIV's turn. -/
def placeToken (w : Word) (s : State) : State :=
  ((s.withMem { s.mem with tok := w :: s.mem.tok.tail }).withDiv (readingDivider s.div)).withAgenda (.div :: s.agenda)

/-- The word as DESC's head, ENC reading, and ENC's turn. -/
def placeDesc (d : DWord) (s : State) : State :=
  ((s.withMem { s.mem with desc := d :: s.mem.desc.tail }).withEnc (readingEncoder s.enc)).withAgenda (.enc :: s.agenda)

/-- Where the instruction of `nbits` bits is fetched next: TOK for 32 bits, DESC for 64; no unit fetches another width (R63). -/
def placeWord (nbits w : Nat) (s : State) : State :=
  if nbits = 32 then placeToken (BitVec.ofNat 32 w) s
  else if nbits = 64 then placeDesc (BitVec.ofNat 64 w) s
  else s

end Sys2Proof.Machine
end

