-- ==== Sys2Proof/Machine/Step.lean ====
section
/-! DEFINITION. One step of the machine, and the host's placing of an instruction word. -/

namespace Sys2Proof.Machine

/-- One atomic step of one agent (R9, R20, R69). -/
def step (s : State) : Host.Outcome State Fault Refusal := nextTurn s

/-- `s` with the instruction stored where `step` fetches its next one: at the head of the unit's channel, the unit in the
state that reads it, and the unit's turn next. How a program comes to run from reset: notes/assumptions/14.md. -/
def State.withFetchWord (s : State) (nbits w : Nat) : State := placeWord nbits w s

end Sys2Proof.Machine
end

