-- ==== Sys2Proof/Machine/Lanes.lean ====
section
/-! DEFINITION. The lanes (10_state.md R21, 60_exceptions.md R273): a list of machines that share no state. -/

namespace Sys2Proof.Machine

/-- R273, R290: every lane from reset together. -/
def resetLanes (c : Config) : List State := List.replicate c.lanes (State.resetWith c)

/-- R232, R233, R292: the lanes are constructed together, under one configuration that is checked before any block starts. With
`LANES` 0 there is no lane: DESIGN CHOICE, notes/assumptions/27.md. -/
def constructLanes (c : Config) : Host.Outcome (List State) Fault Refusal :=
  if configAccepted c then .next (resetLanes c) else .refused .configMalformed

/-- A reset resets every lane (R273, R290); any other step leaves the lanes that do not take it as they are (R21). -/
def otherLanes (reset : Bool) (lanes : List State) : List State := if reset then lanes.map resetLane else lanes

/-- One step of lane `k` (R21). A reset that its controller gives is every lane's (R273, R290; notes/assumptions/16.md). -/
def stepLane (k : Nat) (lanes : List State) : Host.Outcome (List State) Fault Refusal :=
  match lanes[k]? with
  | none => .next lanes
  | some s =>
    match step s with
    | .next t => .next ((otherLanes (givesReset s) lanes).set k t)
    | .fault r => .fault r
    | .refused r => .refused r

end Sys2Proof.Machine
end

