-- ==== Sys2Proof/Machine/Reference.lean ====
section
/-! DEFINITION. The whole-block functions the steps are held against: the source's divider algorithm as the head of
40_divider.md quotes it, the block output of 30_encoding.md R91, and a reader of that output (R92, R235). None of the
machine's steps calls them. -/

namespace Sys2Proof.Machine

/-! ### One parse of a block (R132, R222) -/

/-- The token is a literal (R81). -/
def isLitToken (t : Word) : Bool := decide (rawLen t = 0)

/-- R222 item 1: a LIT or a MATCH, never a reserved encoding. -/
def legalToken (t : Word) : Bool := isLitToken t || (rawLenOk (rawLen t) && offsetOk (tokOffset t))

/-- R132: the input bytes a token covers, 1 per LIT and RAW_LEN per MATCH. -/
def covers (t : Word) : Nat := if isLitToken t then 1 else (rawLen t).toNat

/-- R132, R222 item 2: the bytes a token list covers. -/
def coverage (ts : List Word) : Nat := (ts.map covers).sum

/-- R222 items 3 and 4 from position `pos` on: a LIT carries the block's byte, a MATCH refers inside the block and its covered
bytes equal the bytes OFFSET positions earlier, and the tokens end where the block ends. -/
def describesFrom (block : List Byte) (pos : Nat) : List Word → Bool
  | [] => decide (pos = block.length)
  | t :: ts =>
    (if isLitToken t then decide (block[pos]? = some (litChar t))
     else
      decide ((tokOffset t).toNat ≤ pos) && decide (pos + covers t ≤ block.length) &&
        (List.range (covers t)).all fun k => decide (block[pos + k]? = block[pos + k - (tokOffset t).toNat]?)) &&
      describesFrom block (pos + covers t) ts

/-- R222: the token contract for one block, items 1 to 4 (item 2 is that the tokens end where the block ends). -/
def tokenContract (block : List Byte) (ts : List Word) : Bool := ts.all legalToken && describesFrom block 0 ts

/-! ### The divider's algorithm (40_divider.md, the quoted §4.1) -/

/-- What the algorithm has produced so far, and its literal run counter. -/
structure Split where
  lits : List Byte
  descs : List DWord
  count : Nat
  ovf : Bool
deriving DecidableEq, Repr

def Split.empty : Split := ⟨[], [], 0, false⟩

/-- One token of the walk. -/
def splitToken (max : Nat) (a : Split) (t : Word) : Split :=
  if isLitToken t then { a with lits := a.lits ++ [litChar t], count := a.count + 1 }
  else if max ≤ a.count then { a with ovf := true }
  else
    { a with
      descs := a.descs ++ [pack (BitVec.ofNat 32 a.count) (matchLengthOf (rawLen t)) (tokOffset t)]
      count := 0 }

/-- The tokens of a block in order. -/
def splitTokens (max : Nat) (ts : List Word) : Split := ts.foldl (splitToken max) Split.empty

/-- After the last token: the trailing descriptor, if a run remains, with the sentinel pair if it is exactly the ceiling. -/
def flushSplit (max : Nat) (sentinel : Half) (a : Split) : Split :=
  if a.count = 0 then a
  else if a.count = max then
    { a with descs := a.descs ++ [pack (BitVec.ofNat 32 a.count) sentinel sentinel], ovf := true }
  else { a with descs := a.descs ++ [pack (BitVec.ofNat 32 a.count) 0 0] }

/-- The whole algorithm; the descriptor stream always ends with the all-zero sentinel. -/
def divideBlock (c : Config) (ts : List Word) : Split :=
  let a := flushSplit c.maxLitCount.toNat c.ovfSentinel (splitTokens c.maxLitCount.toNat ts)
  { a with descs := a.descs ++ [0] }

/-! ### The block output (R91) -/

/-- The record of one DESC word with its literal bytes (R90). -/
def recordOf (d : DWord) (lits : List Byte) : List Byte := record (descL d) (descML d) (descOFF d) lits

/-- R91: the records of the descriptors before END, each with its literal bytes from the literal stream. -/
def encodeDescs : List DWord → List Byte → List Byte
  | [], _ => []
  | d :: ds, lits =>
    if d = 0 then []
    else recordOf d (lits.take (descL d).toNat) ++ encodeDescs ds (lits.drop (descL d).toNat)

/-! ### A reader of a block's output (R92, R235) -/

/-- Append `n` bytes, each the one `off` positions before the end (95_test_vectors.md S7). -/
def copyBack (off : Nat) : Nat → List Byte → List Byte
  | 0, acc => acc
  | n + 1, acc => copyBack off n (acc ++ [acc.getD (acc.length - off) 0])

/-- Undo one record after the bytes `acc`: the literals, then match length plus MIN_MATCH bytes from `offset` back. -/
def replay (acc : List Byte) (r : RecordRead) : Option (List Byte) :=
  match r.tail with
  | none => some (acc ++ r.lits)
  | some (ml, off) =>
    if off = 0 ∨ (acc ++ r.lits).length < off then none else some (copyBack off (ml + minMatch) (acc ++ r.lits))

/-- Undo the records in order. -/
def replayAll : List Byte → List RecordRead → Option (List Byte)
  | acc, [] => some acc
  | acc, r :: rs =>
    match replay acc r with
    | none => none
    | some acc' => replayAll acc' rs

/-- Read records until the bytes end; `fuel` bounds the number of records. -/
def parseRecords : Nat → List Byte → Option (List RecordRead)
  | _, [] => some []
  | 0, _ :: _ => none
  | fuel + 1, b :: bs =>
    match readRecord (b :: bs) with
    | none => none
    | some (r, rest) =>
      match parseRecords fuel rest with
      | none => none
      | some rs => some (r :: rs)

/-- R235: the bytes a block's output stands for, to a decoder that accepts a block by the test `accepts` on its records: U8
makes the decoder's end-of-block limits a parameter (notes/assumptions/25.md). Every record has at least one byte. -/
def decodeBlock (accepts : List RecordRead → Bool) (bytes : List Byte) : Option (List Byte) :=
  match parseRecords bytes.length bytes with
  | none => none
  | some rs => if accepts rs then replayAll [] rs else none

/-- The records of a block's output as its descriptors and literal bytes give them (R90, R91): what `accepts` is asked of. -/
def blockRecords : List DWord → List Byte → List RecordRead
  | [], _ => []
  | d :: ds, lits =>
    if d = 0 then []
    else
      ⟨lits.take (descL d).toNat,
        if isLiteralOnly (descML d) (descOFF d) then none else some ((descML d).toNat, (descOFF d).toNat)⟩ ::
      blockRecords ds (lits.drop (descL d).toNat)

/-- The end-of-block limit that R235 names: the last sequence is literal-only. One value of the parameter. -/
def endsLiteralOnly (rs : List RecordRead) : Bool :=
  match rs.getLast? with
  | none => true
  | some r => r.tail.isNone

end Sys2Proof.Machine
end

