-- ==== Sys2Proof/Safety.lean ====
section
/-! DEFINITION. What counts as a finished run, runs and weak fairness, and the invariants of a lane whose LIT and DESC only DIV feeds. -/

namespace Sys2Proof.Safety

open Sys2Proof.Machine

/-- R226: the block run is finished: both units done, LIT and DESC empty, the SIZE element and the OUT bytes taken. -/
def finished (s : State) : Prop :=
  s.div.st = .done ∧ s.enc.st = .done ∧ s.mem.lit = [] ∧ s.mem.desc = [] ∧ s.mem.size = [] ∧ s.mem.out = []

/-- R226, R263: a unit is in its fault state. -/
def faulted (s : State) : Prop := s.div.st = .fault ∨ s.enc.st = .fault

/-- R85: the host drives neither LIT nor DESC (the pipeline, not a harness). -/
def NoHarness (s : State) : Prop := s.env.descs = [] ∧ s.env.lits = []

/-- The controller has no reset still to give (R263). -/
def NoReset (s : State) : Prop := Command.reset ∉ s.env.cmds

/-! ### Runs and weak fairness (R300) -/

/-- An infinite run: every state's step answers the next state. -/
def IsRun (r : Nat → State) : Prop := ∀ k, step (r k) = .next (r (k + 1))

/-- The next step is a turn of agent `a`. -/
def takesTurn (a : Agent) (s : State) : Prop := ∃ u, chosenTurn s = some (a, u)

/-- R300, D14: an agent whose step stays enabled eventually takes it. A premise on runs: the step function itself may starve an
agent (notes/assumptions/23.md). -/
def WeaklyFair (r : Nat → State) : Prop :=
  ∀ a k, (∀ m, k ≤ m → agentReady (r m) a = true) → ∃ m, k ≤ m ∧ takesTurn a (r m)

/-- R222, R295: DIV is never left without a token: wherever it reads one, one is on TOK or the producer still has one. -/
def TokensSupplied (r : Nat → State) : Prop :=
  ∀ k, (r k).div.st = .readToken → (r k).mem.tok ≠ [] ∨ (r k).env.toks ≠ []

/-! ### Invariants -/

/-- R121, R124, R125: the position walk: `litCount <= pos`, `pos < n` while reading and `pos = n` at the flush, n at most
MAX_BLOCK. -/
def DividerWalk (s : State) : Prop :=
  (s.div.st = .readToken →
    s.div.litCount.toNat ≤ s.div.pos.toNat ∧ s.div.pos.toNat < s.div.n.toNat ∧ s.div.n.toNat ≤ maxBlock) ∧
  (s.div.st = .flush →
    s.div.litCount.toNat ≤ s.div.pos.toNat ∧ s.div.pos = s.div.n ∧ s.div.n.toNat ≤ maxBlock)

/-- R165 to R171: what the counters of ENC hold in the states that read them. -/
def EncoderCounts (s : State) : Prop :=
  (s.enc.st = .emitLitLenExt → nibbleMax ≤ s.enc.L.toNat ∧ s.enc.rem.toNat ≤ s.enc.L.toNat - nibbleMax) ∧
  (s.enc.st = .emitLiteralBytes → 1 ≤ s.enc.litLeft.toNat ∧ s.enc.litLeft.toNat ≤ s.enc.L.toNat) ∧
  (s.enc.st = .emitOffsetLow ∨ s.enc.st = .emitOffsetHigh → isLiteralOnly s.enc.ML s.enc.OFF = false) ∧
  (s.enc.st = .emitMatchLenExt → nibbleMax ≤ s.enc.ML.toNat ∧ s.enc.rem.toNat ≤ s.enc.ML.toNat - nibbleMax)

/-- The literal bytes ENC still has to take from LIT for its current descriptor (R165 to R168). -/
def literalsOwed (e : Encoder) : Nat :=
  match e.st with
  | .emitTokenByte => e.L.toNat
  | .emitLitLenExt => e.L.toNat
  | .emitLiteralBytes => e.litLeft.toNat
  | _ => 0

/-- The literal bytes DIV has pushed for which it has pushed no descriptor yet (R25). -/
def openRun (d : Divider) : Nat :=
  match d.st with
  | .readToken => d.litCount.toNat
  | .flush => d.litCount.toNat
  | _ => 0

/-- The sum of L over DESC words. -/
def runsIn (ds : List DWord) : Nat := (ds.map fun d => (descL d).toNat).sum

/-- R71, R134: LIT holds exactly the bytes of ENC's current descriptor not yet copied, of the descriptors in DESC, and of the
run DIV has open. -/
def StreamsAgree (s : State) : Prop :=
  faulted s ∨ s.mem.lit.length = literalsOwed s.enc + runsIn s.mem.desc + openRun s.div

/-- ENC is inside a block and has not taken its END. -/
def encInBlock (e : Encoder) : Bool :=
  decide (e.st ≠ .idle ∧ e.st ≠ .writeSize ∧ e.st ≠ .done ∧ e.st ≠ .fault)

/-- DIV is inside a block and has not sent its END. -/
def divInBlock (d : Divider) : Bool := decide (d.st = .readToken ∨ d.st = .flush ∨ d.st = .emitEnd)

/-- R135, R296: where the two units are in the same block: END is on DESC, last, exactly from DIV's end of the block to
ENC's. -/
def PhasesAgree (s : State) : Prop :=
  faulted s ∨
  (s.div.st = .idle ∧ s.enc.st = .idle ∧ s.mem.desc = []) ∨
  (divInBlock s.div = true ∧ encInBlock s.enc = true ∧ 0 ∉ s.mem.desc) ∨
  (s.div.st = .done ∧ encInBlock s.enc = true ∧ ∃ ds, s.mem.desc = ds ++ [0] ∧ 0 ∉ ds) ∨
  (s.div.st = .done ∧ (s.enc.st = .writeSize ∨ s.enc.st = .done) ∧ s.mem.desc = [])

/-- R262: a unit is in its fault state exactly if a fault is recorded. -/
def FaultsRecorded (s : State) : Prop :=
  (s.div.st = .fault ↔ s.div.fault.isSome = true) ∧ (s.enc.st = .fault ↔ s.enc.fault.isSome = true)

/-- R27, R129: in DIV_DONE, `OVF_FLAG` is the tracked flag of the block. -/
def FlagPublished (s : State) : Prop := s.div.st = .done → s.ovfFlag = s.div.ovf

/-- The invariant of a lane in the pipeline. -/
structure PipelineInv (s : State) : Prop where
  noHarness : NoHarness s
  walk : DividerWalk s
  counts : EncoderCounts s
  streams : StreamsAgree s
  phases : PhasesAgree s
  recorded : FaultsRecorded s
  published : FlagPublished s

end Sys2Proof.Safety
end

