-- ==== Sys2Proof/Certificates/Slice0/Obligations.lean ====
section
/-! DEFINITION. The statements for the provers. Each docstring names the rules of spec/ that the statement formalises. A next
state is written out as a record update of `s`, so what it does not name is unchanged: that is the frame. -/

open Sys2Proof Sys2Proof.Machine Sys2Proof.Safety

/-! ### Encodings -/

/-- R80 to R86, R95: the decoder gives back every well-formed instruction from its word, with every operand at every value.
MATCH and MATCH_OVF share a word class, so the unit's own ceiling condition must be the row's. -/
def Obligations.DecodeInvertsEncode : Prop :=
  ∀ (c : Config) (ceiling : Bool) (i : Instr), i.wf c = true →
    (∀ ch raw off, i = .matchTok ch raw off → ceiling = false) →
    (∀ ch raw off, i = .matchOvf ch raw off → ceiling = true) →
    decode c ceiling (encode c i) = i

/-- R80 to R86: the encoder gives back every word of every source from the instruction it decodes to: no bit is dropped. -/
def Obligations.EncodeInvertsDecode : Prop :=
  ∀ (c : Config) (ceiling : Bool) (w : InputWord), encode c (decode c ceiling w) = w

/-- R80 to R83, R95: the class of a token by the numbers its bit fields hold. That a match token met at the ceiling is the row
MATCH_OVF is R122, R123 and R265 (notes/assumptions/12.md). -/
def Obligations.TokenClassesByNumber : Prop :=
  ∀ (ceiling : Bool) (w : Word),
    let ch : Byte := BitVec.ofNat 8 (w.toNat % 256)
    let raw := w.toNat / 256 % 256
    let off := w.toNat / 65536
    (raw = 0 → decodeToken ceiling w = .lit ch (BitVec.ofNat 16 off)) ∧
    (raw = 1 → decodeToken ceiling w = .badLen1 ch (BitVec.ofNat 16 off)) ∧
    (raw = 2 → decodeToken ceiling w = .badLen23 0 ch (BitVec.ofNat 16 off)) ∧
    (raw = 3 → decodeToken ceiling w = .badLen23 1 ch (BitVec.ofNat 16 off)) ∧
    (4 ≤ raw → off = 0 → decodeToken ceiling w = .matchZeroOff ch (BitVec.ofNat 8 raw)) ∧
    (4 ≤ raw → 1 ≤ off →
      decodeToken ceiling w =
        if ceiling then .matchOvf ch (BitVec.ofNat 8 raw) (BitVec.ofNat 16 off)
        else .matchTok ch (BitVec.ofNat 8 raw) (BitVec.ofNat 16 off))

/-- R85, R86: the class of a descriptor by the numbers its bit fields hold, tested in the order END, LITONLY, OVFSENT,
MATCHSEQ. -/
def Obligations.DescriptorClassesByNumber : Prop :=
  ∀ (sentinel : Half) (d : DWord),
    let L := d.toNat / 2 ^ 32
    let OFF := d.toNat / 2 ^ 16 % 2 ^ 16
    let ML := d.toNat % 2 ^ 16
    decodeDesc sentinel d =
      if L = 0 ∧ ML = 0 ∧ OFF = 0 then .endDesc
      else if ML = 0 ∧ OFF = 0 then .litOnly (BitVec.ofNat 32 L)
      else if ML = sentinel.toNat ∧ OFF = sentinel.toNat then .ovfSent (BitVec.ofNat 32 L)
      else .matchSeq (BitVec.ofNat 32 L) (BitVec.ofNat 16 ML) (BitVec.ofNat 16 OFF)

/-- R85: pack(L, ML, OFF). -/
def Obligations.DescriptorPacking : Prop :=
  ∀ (L : Word) (ML OFF : Half),
    pack L ML OFF = (L.setWidth 64 <<< 32) ||| (OFF.setWidth 64 <<< 16) ||| ML.setWidth 64 ∧
    (pack L ML OFF).extractLsb' 32 32 = L ∧ (pack L ML OFF).extractLsb' 16 16 = OFF ∧
    (pack L ML OFF).extractLsb' 0 16 = ML

/-- 95_test_vectors.md sections 2 and 5 (from R81 to R83, R86): some words written out and the instruction each stands for. -/
def Obligations.WordsOfTheVectors : Prop :=
  decodeTableWord 32 0x00000041 = some (.lit 0x41 0) ∧
  decodeTableWord 32 0xABCD0041 = some (.lit 0x41 0xABCD) ∧
  decodeTableWord 32 0x00000100 = some (.badLen1 0 0) ∧
  decodeTableWord 32 0x00050300 = some (.badLen23 1 0 5) ∧
  decodeTableWord 32 0x00000400 = some (.matchZeroOff 0 4) ∧
  decodeTableWord 32 0x000309FF = some (.matchTok 0xFF 9 3) ∧
  decodeTableWord 64 0 = some .endDesc ∧
  decodeTableWord 64 0x0000000100000000 = some (.litOnly 1) ∧
  decodeTableWord 64 0x0000100003090309 = some (.ovfSent 4096) ∧
  decodeTableWord 64 0x0000000300030005 = some (.matchSeq 3 5 3)

/-! ### The record format -/

/-- R87: the token byte's two codes. -/
def Obligations.TokenByteCodes : Prop :=
  ∀ (L : Word) (ML : Half), (tokenByte L ML).toNat = 16 * min L.toNat 15 + min ML.toNat 15

/-- R88, R89: the length escape law, for a literal run length L and, the same, for a matchLength. -/
def Obligations.LengthEscapeLaw : Prop :=
  ∀ x : Nat,
    (x < 15 → ext x = []) ∧
    (15 ≤ x →
      (ext x).length = (x - 15) / 255 + 1 ∧
      (∀ k, k < (x - 15) / 255 → (ext x)[k]? = some 255) ∧
      ∃ b : Byte, (ext x)[(x - 15) / 255]? = some b ∧ b.toNat = (x - 15) % 255)

/-- R92: a reader of OUT finds in a record its literal bytes, match length and offset and the bytes after it, and the record
has the length of R92's formula. A literal-only record is the block's last. -/
def Obligations.ReaderRecoversRecord : Prop :=
  ∀ (L : Word) (ML OFF : Half) (lits rest : List Byte), lits.length = L.toNat → (ML = 0 ∧ OFF = 0 → rest = []) →
    (record L ML OFF lits).length = recordLength L ML OFF ∧
    readRecord (record L ML OFF lits ++ rest) =
      some (⟨lits, if ML = 0 ∧ OFF = 0 then none else some (ML.toNat, OFF.toNat)⟩, rest)

/-! ### DIV's token steps -/

/-- R121 with the end-of-walk test of R125: a literal token. -/
def Obligations.LiteralTokenStep : Prop :=
  ∀ (s : State) (ch : Byte) (off : Half) (rest : List Word),
    s.div.st = .readToken → s.mem.tok = tokenWord ch 0 off :: rest →
    (s.mem.lit.length < s.cfg.litDepth →
      exec (.lit ch off) s = .next { s with
        mem := { s.mem with tok := rest, lit := s.mem.lit ++ [ch] }
        div := { s.div with
          litCount := s.div.litCount + 1
          pos := s.div.pos + 1
          st := if s.div.pos + 1 = s.div.n then .flush else .readToken } }) ∧
    (s.cfg.litDepth ≤ s.mem.lit.length → exec (.lit ch off) s = .next s) ∧
    (DividerWalk s → (s.div.litCount + 1).toNat = s.div.litCount.toNat + 1 ∧
      (s.div.pos + 1).toNat = s.div.pos.toNat + 1 ∧ s.div.pos.toNat + 1 ≤ s.div.n.toNat)

/-- R122 with the end-of-walk test of R125: a match token below the ceiling. -/
def Obligations.MatchTokenStep : Prop :=
  ∀ (s : State) (ch raw : Byte) (off : Half) (rest : List Word),
    s.div.st = .readToken → s.mem.tok = tokenWord ch raw off :: rest → 4 ≤ raw.toNat → 1 ≤ off.toNat →
    s.div.pos.toNat + raw.toNat ≤ s.div.n.toNat → s.div.litCount.toNat < s.cfg.maxLitCount.toNat →
    (s.mem.desc.length < s.cfg.descDepth →
      exec (.matchTok ch raw off) s = .next { s with
        mem := { s.mem with
          tok := rest
          desc := s.mem.desc ++ [pack s.div.litCount (BitVec.ofNat 16 (raw.toNat - 4)) off] }
        div := { s.div with
          litCount := 0
          pos := s.div.pos + raw.setWidth 32
          st := if s.div.pos + raw.setWidth 32 = s.div.n then .flush else .readToken } }) ∧
    (s.cfg.descDepth ≤ s.mem.desc.length → exec (.matchTok ch raw off) s = .next s) ∧
    pack s.div.litCount (BitVec.ofNat 16 (raw.toNat - 4)) off ≠ 0

/-- R123 with the end-of-walk test of R125: a match token at or above the ceiling; no room in DESC is needed. -/
def Obligations.MatchAtCeilingStep : Prop :=
  ∀ (s : State) (ch raw : Byte) (off : Half) (rest : List Word),
    s.div.st = .readToken → s.mem.tok = tokenWord ch raw off :: rest → 4 ≤ raw.toNat → 1 ≤ off.toNat →
    s.div.pos.toNat + raw.toNat ≤ s.div.n.toNat → s.cfg.maxLitCount.toNat ≤ s.div.litCount.toNat →
    exec (.matchOvf ch raw off) s = .next { s with
      mem := { s.mem with tok := rest }
      div := { s.div with
        ovf := true
        pos := s.div.pos + raw.setWidth 32
        st := if s.div.pos + raw.setWidth 32 = s.div.n then .flush else .readToken } }

/-- R124, R262: the reserved token rows pop the token and enter the fault state with kind and info. -/
def Obligations.ReservedTokensFault : Prop :=
  ∀ (s : State) (ch : Byte) (off : Half) (rest : List Word), s.div.st = .readToken →
    (s.mem.tok = tokenWord ch 1 off :: rest →
      exec (.badLen1 ch off) s = .next { s with
        mem := { s.mem with tok := rest }
        div := { s.div with st := .fault, fault := some (.badMatchLength (tokenWord ch 1 off) s.div.pos) } }) ∧
    (s.mem.tok = tokenWord ch 2 off :: rest →
      exec (.badLen23 0 ch off) s = .next { s with
        mem := { s.mem with tok := rest }
        div := { s.div with st := .fault, fault := some (.badMatchLength (tokenWord ch 2 off) s.div.pos) } }) ∧
    (s.mem.tok = tokenWord ch 3 off :: rest →
      exec (.badLen23 1 ch off) s = .next { s with
        mem := { s.mem with tok := rest }
        div := { s.div with st := .fault, fault := some (.badMatchLength (tokenWord ch 3 off) s.div.pos) } }) ∧
    (∀ raw : Byte, 4 ≤ raw.toNat → s.mem.tok = tokenWord ch raw 0 :: rest →
      exec (.matchZeroOff ch raw) s = .next { s with
        mem := { s.mem with tok := rest }
        div := { s.div with st := .fault, fault := some (.zeroOffset (tokenWord ch raw 0) s.div.pos) } })

/-- R124: the three checks by the token's numbers, in their order, whatever the ceiling and the room in the channels; a token
that passes them raises nothing, and a literal cannot overshoot. BlockTooLong is raised by START (R120). -/
def Obligations.TokenFaultOrder : Prop :=
  ∀ (s : State) (w : Word) (rest : List Word), s.div.st = .readToken → s.mem.tok = w :: rest →
    let raw := w.toNat / 256 % 256
    let off := w.toNat / 65536
    let faulted (f : ModelFault) : State := { s with
      mem := { s.mem with tok := rest }
      div := { s.div with st := .fault, fault := some f } }
    (1 ≤ raw → raw ≤ 3 → divTurn s = .next (faulted (.badMatchLength w s.div.pos))) ∧
    (4 ≤ raw → off = 0 → divTurn s = .next (faulted (.zeroOffset w s.div.pos))) ∧
    (4 ≤ raw → 1 ≤ off → s.div.n.toNat < s.div.pos.toNat + raw →
      divTurn s = .next (faulted (.overshoot w s.div.pos s.div.n))) ∧
    (∀ t, divTurn s = .next t →
      ¬ (1 ≤ raw ∧ raw ≤ 3) → ¬ (4 ≤ raw ∧ off = 0) → ¬ (4 ≤ raw ∧ s.div.n.toNat < s.div.pos.toNat + raw) →
      t.div.st ≠ .fault ∧ t.div.fault = s.div.fault) ∧
    (DividerWalk s → raw = 0 → s.div.pos.toNat + 1 ≤ s.div.n.toNat)

/-- R124, R265: a match past the block's end raises Overshoot before the ceiling is looked at, for both match rows. -/
def Obligations.OvershootFaults : Prop :=
  ∀ (s : State) (ch raw : Byte) (off : Half) (rest : List Word),
    s.div.st = .readToken → s.mem.tok = tokenWord ch raw off :: rest → 4 ≤ raw.toNat → 1 ≤ off.toNat →
    s.div.n.toNat < s.div.pos.toNat + raw.toNat →
    ∀ i : Instr, i = .matchTok ch raw off ∨ i = .matchOvf ch raw off →
      exec i s = .next { s with
        mem := { s.mem with tok := rest }
        div := { s.div with
          st := .fault, fault := some (.overshoot (tokenWord ch raw off) s.div.pos s.div.n) } }

/-! ### DIV's flush and end -/

/-- R126, R127, R128: the trailing run, with MAX_LIT_COUNT at least 1 (R6). -/
def Obligations.TrailingRunFlush : Prop :=
  ∀ s : State, s.div.st = .flush → s.cfg.maxLitCount ≠ 0 →
    (s.div.litCount = 0 → divTurn s = .next { s with div := { s.div with st := .emitEnd } }) ∧
    (s.div.litCount ≠ 0 → s.div.litCount ≠ s.cfg.maxLitCount → s.mem.desc.length < s.cfg.descDepth →
      divTurn s = .next { s with
        mem := { s.mem with desc := s.mem.desc ++ [pack s.div.litCount 0 0] }
        div := { s.div with st := .emitEnd } }) ∧
    (s.div.litCount = s.cfg.maxLitCount → s.mem.desc.length < s.cfg.descDepth →
      divTurn s = .next { s with
        mem := { s.mem with desc := s.mem.desc ++ [pack s.div.litCount s.cfg.ovfSentinel s.cfg.ovfSentinel] }
        div := { s.div with ovf := true, st := .emitEnd } }) ∧
    (s.div.litCount ≠ 0 → s.cfg.descDepth ≤ s.mem.desc.length → divTurn s = .next s)

/-- R129: the end sentinel and the published flag. -/
def Obligations.EndSentinelStep : Prop :=
  ∀ s : State, s.div.st = .emitEnd →
    (s.mem.desc.length < s.cfg.descDepth →
      divTurn s = .next { s with
        mem := { s.mem with desc := s.mem.desc ++ [0] }
        ovfFlag := s.div.ovf
        div := { s.div with st := .done } }) ∧
    (s.cfg.descDepth ≤ s.mem.desc.length → divTurn s = .next s)

/-! ### ENC's steps -/

/-- R164: READ_DESCRIPTOR; END is recognised only when all 64 bits are zero. -/
def Obligations.ReadDescriptorStep : Prop :=
  ∀ s : State, s.enc.st = .readDescriptor →
    (∀ d rest, s.mem.desc = d :: rest →
      encTurn s =
        if d.toNat = 0 then .next { s with
          mem := { s.mem with desc := rest }
          enc := { s.enc with st := .writeSize } }
        else .next { s with
          mem := { s.mem with desc := rest }
          enc := { s.enc with
            L := d.extractLsb' 32 32
            OFF := d.extractLsb' 16 16
            ML := d.extractLsb' 0 16
            st := .emitTokenByte } }) ∧
    (s.mem.desc = [] → encTurn s = .next s)

/-- R163: ENC_EMPTY_DISCARD; LIT is not read. -/
def Obligations.EmptyDiscardStep : Prop :=
  ∀ s : State, s.enc.st = .emptyDiscard →
    (∀ d rest, s.mem.desc = d :: rest →
      encTurn s =
        if d.toNat = 0 then .next { s with
          mem := { s.mem with desc := rest }
          enc := { s.enc with st := .done } }
        else .next { s with
          mem := { s.mem with desc := rest }
          enc := { s.enc with st := .fault, fault := some (.emptyNotSentinel d) } }) ∧
    (s.mem.desc = [] → encTurn s = .next s)

/-- R164, R163: what each descriptor row does when ENC reads it, and when an empty block's END was expected. -/
def Obligations.DescriptorInstructionSteps : Prop :=
  ∀ (s : State) (rest : List DWord) (L : Word) (ML OFF : Half),
    (s.enc.st = .readDescriptor → s.mem.desc = 0 :: rest →
      exec .endDesc s = .next { s with mem := { s.mem with desc := rest }, enc := { s.enc with st := .writeSize } }) ∧
    (s.enc.st = .emptyDiscard → s.mem.desc = 0 :: rest →
      exec .endDesc s = .next { s with mem := { s.mem with desc := rest }, enc := { s.enc with st := .done } }) ∧
    (∀ i : Instr,
      (i = .litOnly L ∧ ML = 0 ∧ OFF = 0) ∨ (i = .ovfSent L ∧ ML = s.cfg.ovfSentinel ∧ OFF = s.cfg.ovfSentinel) ∨
        i = .matchSeq L ML OFF →
      i.wf s.cfg = true → s.mem.desc = pack L ML OFF :: rest →
      (s.enc.st = .readDescriptor →
        exec i s = .next { s with
          mem := { s.mem with desc := rest }
          enc := { s.enc with L := L, ML := ML, OFF := OFF, st := .emitTokenByte } }) ∧
      (s.enc.st = .emptyDiscard →
        exec i s = .next { s with
          mem := { s.mem with desc := rest }
          enc := { s.enc with st := .fault, fault := some (.emptyNotSentinel (pack L ML OFF)) } }))

/-- R161, R162: the empty block's size and its terminator byte, which enc.size does not count. -/
def Obligations.EmptyBlockOutputSteps : Prop :=
  ∀ s : State,
    (s.enc.st = .emptySize →
      (s.mem.size.length < s.cfg.sizeDepth →
        encTurn s = .next { s with
          mem := { s.mem with size := s.mem.size ++ [0] }
          enc := { s.enc with st := .emptyTerm } }) ∧
      (s.cfg.sizeDepth ≤ s.mem.size.length → encTurn s = .next s)) ∧
    (s.enc.st = .emptyTerm →
      (s.mem.out.length < s.cfg.outDepth →
        encTurn s = .next { s with
          mem := { s.mem with out := s.mem.out ++ [s.cfg.terminatorByte] }
          enc := { s.enc with st := .emptyDiscard } }) ∧
      (s.cfg.outDepth ≤ s.mem.out.length → encTurn s = .next s))

/-- R165 with R166: EMIT_TOKEN_BYTE. -/
def Obligations.TokenByteStep : Prop :=
  ∀ s : State, s.enc.st = .emitTokenByte →
    (s.cfg.outDepth ≤ s.mem.out.length → encTurn s = .next s) ∧
    (s.mem.out.length < s.cfg.outDepth → s.enc.size.toNat < 2 ^ 32 - 1 →
      encTurn s = .next { s with
        mem := { s.mem with out := s.mem.out ++ [BitVec.ofNat 8 (16 * min s.enc.L.toNat 15 + min s.enc.ML.toNat 15)] }
        enc :=
          if 15 ≤ s.enc.L.toNat then
            { s.enc with rem := s.enc.L - 15, st := .emitLitLenExt, size := s.enc.size + 1 }
          else if 0 < s.enc.L.toNat then
            { s.enc with litLeft := s.enc.L, st := .emitLiteralBytes, size := s.enc.size + 1 }
          else if s.enc.ML = 0 ∧ s.enc.OFF = 0 then { s.enc with st := .readDescriptor, size := s.enc.size + 1 }
          else { s.enc with st := .emitOffsetLow, size := s.enc.size + 1 } })

/-- R167: EMIT_LIT_LEN_EXT. -/
def Obligations.LiteralLengthExtensionStep : Prop :=
  ∀ s : State, s.enc.st = .emitLitLenExt →
    (s.cfg.outDepth ≤ s.mem.out.length → encTurn s = .next s) ∧
    (s.mem.out.length < s.cfg.outDepth → s.enc.size.toNat < 2 ^ 32 - 1 →
      encTurn s =
        if 255 ≤ s.enc.rem.toNat then .next { s with
          mem := { s.mem with out := s.mem.out ++ [0xFF] }
          enc := { s.enc with rem := s.enc.rem - 255, size := s.enc.size + 1 } }
        else .next { s with
          mem := { s.mem with out := s.mem.out ++ [BitVec.ofNat 8 s.enc.rem.toNat] }
          enc := { s.enc with litLeft := s.enc.L, st := .emitLiteralBytes, size := s.enc.size + 1 } })

/-- R168 with R166: EMIT_LITERAL_BYTES. -/
def Obligations.LiteralByteStep : Prop :=
  ∀ s : State, s.enc.st = .emitLiteralBytes →
    (s.cfg.outDepth ≤ s.mem.out.length → encTurn s = .next s) ∧
    (s.mem.lit = [] → encTurn s = .next s) ∧
    (∀ b rest, s.mem.lit = b :: rest → s.mem.out.length < s.cfg.outDepth → s.enc.size.toNat < 2 ^ 32 - 1 →
      encTurn s = .next { s with
        mem := { s.mem with lit := rest, out := s.mem.out ++ [b] }
        enc := { s.enc with
          litLeft := s.enc.litLeft - 1
          size := s.enc.size + 1
          st :=
            if s.enc.litLeft - 1 ≠ 0 then .emitLiteralBytes
            else if s.enc.ML = 0 ∧ s.enc.OFF = 0 then .readDescriptor
            else .emitOffsetLow } })

/-- R169, R170, R62: the offset, low byte first. -/
def Obligations.OffsetByteSteps : Prop :=
  ∀ s : State, s.enc.st = .emitOffsetLow ∨ s.enc.st = .emitOffsetHigh →
    (s.cfg.outDepth ≤ s.mem.out.length → encTurn s = .next s) ∧
    (s.mem.out.length < s.cfg.outDepth → s.enc.size.toNat < 2 ^ 32 - 1 →
      encTurn s =
        if s.enc.st = .emitOffsetLow then .next { s with
          mem := { s.mem with out := s.mem.out ++ [BitVec.ofNat 8 (s.enc.OFF.toNat % 256)] }
          enc := { s.enc with st := .emitOffsetHigh, size := s.enc.size + 1 } }
        else .next { s with
          mem := { s.mem with out := s.mem.out ++ [BitVec.ofNat 8 (s.enc.OFF.toNat / 256)] }
          enc :=
            if 15 ≤ s.enc.ML.toNat then
              { s.enc with rem := BitVec.ofNat 32 (s.enc.ML.toNat - 15), st := .emitMatchLenExt, size := s.enc.size + 1 }
            else { s.enc with st := .readDescriptor, size := s.enc.size + 1 } })

/-- R171: EMIT_MATCH_LEN_EXT. -/
def Obligations.MatchLengthExtensionStep : Prop :=
  ∀ s : State, s.enc.st = .emitMatchLenExt →
    (s.cfg.outDepth ≤ s.mem.out.length → encTurn s = .next s) ∧
    (s.mem.out.length < s.cfg.outDepth → s.enc.size.toNat < 2 ^ 32 - 1 →
      encTurn s =
        if 255 ≤ s.enc.rem.toNat then .next { s with
          mem := { s.mem with out := s.mem.out ++ [0xFF] }
          enc := { s.enc with rem := s.enc.rem - 255, size := s.enc.size + 1 } }
        else .next { s with
          mem := { s.mem with out := s.mem.out ++ [BitVec.ofNat 8 s.enc.rem.toNat] }
          enc := { s.enc with st := .readDescriptor, size := s.enc.size + 1 } })

/-- R172: ENC_WRITE_SIZE. -/
def Obligations.WriteSizeStep : Prop :=
  ∀ s : State, s.enc.st = .writeSize →
    (s.mem.size.length < s.cfg.sizeDepth →
      encTurn s = .next { s with
        mem := { s.mem with size := s.mem.size ++ [s.enc.size] }
        enc := { s.enc with st := .done } }) ∧
    (s.cfg.sizeDepth ≤ s.mem.size.length → encTurn s = .next s)

/-- R181: an emit step that would take enc.size past 2^32 - 1 raises SizeOverflow and pushes nothing. That it also pops
nothing is the model's reading (notes/assumptions/8.md). -/
def Obligations.SizeOverflowFaults : Prop :=
  ∀ s : State, s.enc.size.toNat = 2 ^ 32 - 1 → s.mem.out.length < s.cfg.outDepth →
    s.enc.st = .emitTokenByte ∨ s.enc.st = .emitLitLenExt ∨ (s.enc.st = .emitLiteralBytes ∧ s.mem.lit ≠ []) ∨
      s.enc.st = .emitOffsetLow ∨ s.enc.st = .emitOffsetHigh ∨ s.enc.st = .emitMatchLenExt →
    encTurn s = .next { s with enc := { s.enc with st := .fault, fault := some (.sizeOverflow s.enc.st) } }

/-! ### START and the host -/

/-- R120, R160: START begins the block in both units in one step; a length above MAX_BLOCK faults DIV; a START that is not
allowed is refused. The configuration is one that the model's check (R6, R233, R292;
notes/assumptions/26.md) accepts. After BlockTooLong DIV's other registers keep their
values: the model's reading, notes/assumptions/7.md. -/
def Obligations.StartBeginsBlock : Prop :=
  ∀ (s : State) (n : Word),
    ((s.div.st = .idle ∨ s.div.st = .done) → (s.enc.st = .idle ∨ s.enc.st = .done) → s.mem.size = [] →
      s.env.flagRead = true → configAccepted s.cfg = true →
      exec (.start n) s = .next { s with
        div :=
          if 65536 < n.toNat then { s.div with st := .fault, fault := some (.blockTooLong n) }
          else { s.div with
            n := n
            pos := 0
            litCount := 0
            ovf := false
            st := if n = 0 then .emitEnd else .readToken }
        enc := { s.enc with
          n := n
          size := 0
          st := if n = 0 then .emptySize else .readDescriptor }
        env := { s.env with flagRead := false } }) ∧
    (¬ (s.div.st = .idle ∨ s.div.st = .done) → exec (.start n) s = .refused .startNotAllowed) ∧
    (¬ (s.enc.st = .idle ∨ s.enc.st = .done) → exec (.start n) s = .refused .startNotAllowed)

/-- R223, R233: START and a change of MAX_LIT_COUNT under one condition, refused otherwise; 0 is refused, and under a malformed
configuration no block starts (R292). That the SIZE element is taken is read as SIZE being empty (notes/assumptions/5.md), and that
it is START that meets the configuration error in a lane that has a malformed one, and that a channel depth
of 0 (R6) makes it malformed, are the model's reading (notes/assumptions/26.md). -/
def Obligations.StartProtocol : Prop :=
  ∀ (s : State) (n m : Word),
    let allowed := (s.div.st = .idle ∨ s.div.st = .done) ∧ (s.enc.st = .idle ∨ s.enc.st = .done) ∧
      s.mem.size = [] ∧ s.env.flagRead = true
    let wellConfigured := s.cfg.maxLitCount ≠ 0 ∧ s.cfg.minBlockSize < 65536 ∧ 1 ≤ s.cfg.tokDepth ∧ 1 ≤ s.cfg.litDepth ∧
      1 ≤ s.cfg.descDepth ∧ 1 ≤ s.cfg.outDepth ∧ 1 ≤ s.cfg.sizeDepth
    (allowed →
      (wellConfigured → ∃ t, exec (.start n) s = .next t) ∧
      (¬ wellConfigured → exec (.start n) s = .refused .configMalformed) ∧
      (m ≠ 0 → runCommand (.setMaxLitCount m) s = .next { s with cfg := { s.cfg with maxLitCount := m } }) ∧
      runCommand (.setMaxLitCount 0) s = .refused .maxLitCountZero) ∧
    (¬ allowed →
      exec (.start n) s = .refused .startNotAllowed ∧
      runCommand (.setMaxLitCount m) s = .refused .configNotAllowed)

/-- R225, R297: the host's read of OVF_FLAG; outside DIV_DONE the stale value is read and does not count for R223. -/
def Obligations.FlagRead : Prop :=
  ∀ s : State,
    runCommand .readFlag s = .next { s with
      env := { s.env with
        flagsTaken := s.env.flagsTaken ++ [s.ovfFlag]
        flagRead := if s.div.st = .done then true else s.env.flagRead } }

/-- R61, R222, R224: the TOK producer, the OUT consumer and the SIZE consumer move whole elements in order; a full or empty
channel blocks them. -/
def Obligations.HostChannelTurns : Prop :=
  ∀ s : State,
    (∀ w rest, s.env.toks = w :: rest → s.mem.tok.length < s.cfg.tokDepth →
      act .tokProducer s = .next { s with
        mem := { s.mem with tok := s.mem.tok ++ [w] }
        env := { s.env with toks := rest } }) ∧
    (s.cfg.tokDepth ≤ s.mem.tok.length → act .tokProducer s = .next s) ∧
    (∀ b rest, s.mem.out = b :: rest →
      act .outConsumer s = .next { s with
        mem := { s.mem with out := rest }
        env := { s.env with outTaken := s.env.outTaken ++ [b] } }) ∧
    (s.mem.out = [] → act .outConsumer s = .next s) ∧
    (∀ n rest, s.mem.size = n :: rest →
      act .sizeConsumer s = .next { s with
        mem := { s.mem with size := rest }
        env := { s.env with sizesTaken := s.env.sizesTaken ++ [n] } }) ∧
    (s.mem.size = [] → act .sizeConsumer s = .next s)

/-- R227: the partition into blocks. -/
def Obligations.Partition : Prop :=
  ∀ N : Nat,
    numBlocks N = N / 65536 + (if N % 65536 = 0 then 0 else 1) ∧
    ((List.range (numBlocks N)).map (blockLength N)).sum = N ∧
    (∀ i, i < numBlocks N → 1 ≤ blockLength N i ∧ blockLength N i ≤ 65536) ∧
    (∀ i, i + 1 < numBlocks N → blockLength N i = 65536)

/-- R228, R229, R230: the size table, entry by entry in block order, in the priority small, overflow, reported. -/
def Obligations.SizeTable : Prop :=
  ∀ (c : Config) (N : Nat) (reports : List BlockReport),
    (perBlockSize c N reports).length = numBlocks N ∧
    ∀ i, i < numBlocks N → ∀ r, reports[i]? = some r →
      (perBlockSize c N reports)[i]? = some
        (if blockLength N i < c.minBlockSize then blockLength N i
         else if r.ovfFlag = true then blockLength N i
         else r.compressedSize.toNat)

/-! ### What runs produce -/

/-- R174: from READ_DESCRIPTOR with a word other than END, its literal bytes on LIT and room on OUT, 1 + |Record| steps of ENC
push exactly the record and take exactly its literal bytes, and ENC is in READ_DESCRIPTOR next only then. -/
def Obligations.RecordEmission : Prop :=
  ∀ (s : State) (L : Word) (ML OFF : Half) (lits litRest : List Byte) (descRest : List DWord),
    s.enc.st = .readDescriptor → s.mem.desc = pack L ML OFF :: descRest → ¬ (L = 0 ∧ ML = 0 ∧ OFF = 0) →
    s.mem.lit = lits ++ litRest → lits.length = L.toNat →
    s.mem.out.length + (record L ML OFF lits).length ≤ s.cfg.outDepth →
    s.enc.size.toNat + (record L ML OFF lits).length < 2 ^ 32 →
    (∃ t, runAgent .enc (1 + (record L ML OFF lits).length) s = .next t ∧
      t.enc.st = .readDescriptor ∧
      t.mem = { s.mem with desc := descRest, lit := litRest, out := s.mem.out ++ record L ML OFF lits } ∧
      t.enc.size.toNat = s.enc.size.toNat + (record L ML OFF lits).length ∧
      t.div = s.div ∧ t.ovfFlag = s.ovfFlag ∧ t.cfg = s.cfg ∧ t.env = s.env) ∧
    (∀ k, 0 < k → k < 1 + (record L ML OFF lits).length →
      ∃ u, runAgent .enc k s = .next u ∧ u.enc.st ≠ .readDescriptor)

/-- R175, R91, R301: over the words of a block and END, ENC pushes the records in order, then their total length on SIZE, in
(m + 1) + total + 1 steps. -/
def Obligations.BlockEmission : Prop :=
  ∀ (s : State) (ds descRest : List DWord) (lits litRest : List Byte),
    s.enc.st = .readDescriptor → s.enc.size = 0 → s.mem.desc = ds ++ 0 :: descRest → 0 ∉ ds →
    s.mem.lit = lits ++ litRest → lits.length = runsIn ds →
    s.mem.out.length + (encodeDescs ds lits).length ≤ s.cfg.outDepth → (encodeDescs ds lits).length < 2 ^ 32 →
    s.mem.size.length < s.cfg.sizeDepth →
    ∃ t, runAgent .enc (ds.length + 1 + (encodeDescs ds lits).length + 1) s = .next t ∧
      t.enc.st = .done ∧
      t.mem = { s.mem with
        desc := descRest
        lit := litRest
        out := s.mem.out ++ encodeDescs ds lits
        size := s.mem.size ++ [BitVec.ofNat 32 (encodeDescs ds lits).length] } ∧
      t.div = s.div ∧ t.ovfFlag = s.ovfFlag ∧ t.cfg = s.cfg ∧ t.env = s.env

/-- The algorithm quoted at the head of 40_divider.md, with R132, R133 and R301: over the tokens of one parse of a block DIV
produces exactly the algorithm's literal stream, descriptor stream and flag, in k + 2 steps, and takes no further token. -/
def Obligations.DividerRunsTheAlgorithm : Prop :=
  ∀ (s : State) (ts rest : List Word),
    s.div.st = .readToken → s.div.pos = 0 → s.div.litCount = 0 → s.div.ovf = false →
    ts ≠ [] → ts.all legalToken = true → coverage ts = s.div.n.toNat → s.div.n.toNat ≤ 65536 →
    s.mem.tok = ts ++ rest →
    s.mem.lit.length + (divideBlock s.cfg ts).lits.length ≤ s.cfg.litDepth →
    s.mem.desc.length + (divideBlock s.cfg ts).descs.length ≤ s.cfg.descDepth →
    ∃ t, runAgent .div (ts.length + 2) s = .next t ∧
      t.div.st = .done ∧ t.div.pos = s.div.n ∧
      t.ovfFlag = (divideBlock s.cfg ts).ovf ∧ t.div.ovf = (divideBlock s.cfg ts).ovf ∧
      t.mem = { s.mem with
        tok := rest
        lit := s.mem.lit ++ (divideBlock s.cfg ts).lits
        desc := s.mem.desc ++ (divideBlock s.cfg ts).descs } ∧
      t.enc = s.enc ∧ t.cfg = s.cfg ∧ t.env = s.env

/-- R136: when the algorithm's flag is true. -/
def Obligations.OverflowFlagLaw : Prop :=
  ∀ (c : Config) (ts : List Word), c.maxLitCount ≠ 0 →
    let max := c.maxLitCount.toNat
    ((divideBlock c ts).ovf = true ↔
      (∃ p t q, ts = p ++ t :: q ∧ isLitToken t = false ∧ max ≤ (splitTokens max p).count) ∨
      (splitTokens max ts).count = max)

/-- R134: the run lengths of a block's descriptors add up to its literal bytes. -/
def Obligations.StreamConsistency : Prop :=
  ∀ (c : Config) (ts : List Word), coverage ts ≤ 65536 →
    runsIn (divideBlock c ts).descs = (divideBlock c ts).lits.length

/-- R135: the shape of one block's DESC words: matches with OFF at least 1 and ML at most 251, at most one trailing word,
then exactly one END. -/
def Obligations.DescriptorStreamShape : Prop :=
  ∀ (c : Config) (ts : List Word), ts.all legalToken = true → coverage ts ≤ 65536 →
    ∃ ms trail, (divideBlock c ts).descs = ms ++ trail ++ [0] ∧
      (∀ d ∈ ms, 1 ≤ (descOFF d).toNat ∧ (descML d).toNat ≤ 251) ∧
      (trail = [] ∨
        (∃ L : Word, L ≠ 0 ∧ L ≠ c.maxLitCount ∧ trail = [pack L 0 0]) ∨
        (c.maxLitCount ≠ 0 ∧ trail = [pack c.maxLitCount c.ovfSentinel c.ovfSentinel]))

/-- R235, R222: under the token contract, with the flag false, a decoder that reads the block's output by R92 gives the block back
if it accepts the way the block's records end, and nothing if it does not. The decoder's acceptance is any test on the records: a
parameter and a premise, as U8 asks (notes/assumptions/25.md). -/
def Obligations.RoundTrip : Prop :=
  ∀ (accepts : List RecordRead → Bool) (c : Config) (block : List Byte) (ts : List Word),
    block.length ≤ 65536 → tokenContract block ts = true → (divideBlock c ts).ovf = false →
    let output := encodeDescs (divideBlock c ts).descs (divideBlock c ts).lits
    let records := blockRecords (divideBlock c ts).descs (divideBlock c ts).lits
    (accepts records = true → decodeBlock accepts output = some block) ∧
    (accepts records = false → decodeBlock accepts output = none)

/-- R130, R161 to R163, R301: an empty block, DIV's one step then ENC's three. -/
def Obligations.EmptyBlockRun : Prop :=
  ∀ s : State, startAllowed s = true → configAccepted s.cfg = true → s.mem.desc = [] →
    s.mem.out.length < s.cfg.outDepth →
    ∃ a b t, exec (.start 0) s = .next a ∧ runAgent .div 1 a = .next b ∧ runAgent .enc 3 b = .next t ∧
      t.div.st = .done ∧ t.ovfFlag = false ∧ t.enc.st = .done ∧ t.enc.size = 0 ∧
      t.mem = { s.mem with out := s.mem.out ++ [s.cfg.terminatorByte], size := s.mem.size ++ [0] }

/-! ### The whole machine -/

/-- A step fetches and runs the decoded instruction, which is well-formed: a token in DIV's turn (R3, R95), a descriptor in
ENC's (R86), a START in the controller's (R223); the only thing around exec is that the turn and the command are used up. -/
def Obligations.StepRunsTheFetchedInstruction : Prop :=
  ∀ (s : State) (agenda : List Agent),
    (∀ w ws, s.agenda = .div :: agenda → s.div.st = .readToken → s.mem.tok = w :: ws →
      (decode s.cfg (atCeiling s) (.token w)).wf s.cfg = true ∧
      step s = exec (decode s.cfg (atCeiling s) (.token w)) { s with agenda := agenda }) ∧
    (∀ d ds, s.agenda = .enc :: agenda → s.enc.st = .readDescriptor ∨ s.enc.st = .emptyDiscard → s.mem.desc = d :: ds →
      (decode s.cfg (atCeiling s) (.desc d)).wf s.cfg = true ∧
      step s = exec (decode s.cfg (atCeiling s) (.desc d)) { s with agenda := agenda }) ∧
    (∀ n cs, s.agenda = .controller :: agenda → s.env.cmds = .start n :: cs →
      step s = exec (.start n) { s with agenda := agenda, env := { s.env with cmds := cs } })

/-- R20, R69: a turn the agenda does not fix is a turn of an agent that has an enabled step, or nothing if there is none. The
choice among several is a free value. -/
def Obligations.FreeTurnIsReady : Prop :=
  ∀ s : State, s.agenda = [] →
    ((∀ a, agentReady s a = false) → step s = .next s) ∧
    ((∃ a, agentReady s a = true) →
      ∃ a tick, agentReady s a = true ∧ step s = act a { s with tick := tick })

/-- R264, R266: a unit's turn changes nothing exactly if no step of the unit is enabled. -/
def Obligations.UnitsStepExactlyWhenReady : Prop :=
  ∀ s : State, (divTurn s = .next s ↔ divReady s = false) ∧ (encTurn s = .next s ↔ encReady s = false)

/-- R65, R220: what the instructions of each unit leave unchanged. A token instruction moves at most one element on TOK, LIT
and DESC and writes only DIV's registers, not n; a descriptor instruction takes at most one word off DESC and writes only ENC's st, L, ML,
OFF and fault. -/
def Obligations.InstructionFrames : Prop :=
  ∀ (i : Instr) (s t : State), exec i s = .next t →
    (i.isToken = true →
      (∃ div mem, t = { s with div := div, mem := mem }) ∧
      t.div.n = s.div.n ∧ t.mem.out = s.mem.out ∧ t.mem.size = s.mem.size ∧
      (t.mem.tok = s.mem.tok ∨ t.mem.tok = s.mem.tok.tail) ∧
      (∃ bs, t.mem.lit = s.mem.lit ++ bs ∧ bs.length ≤ 1) ∧ (∃ ds, t.mem.desc = s.mem.desc ++ ds ∧ ds.length ≤ 1)) ∧
    (i.isToken = false → (∀ n, i ≠ .start n) →
      ∃ desc st L ML OFF fault, (desc = s.mem.desc ∨ desc = s.mem.desc.tail) ∧
        t = { s with
          mem := { s.mem with desc := desc }
          enc := { s.enc with st := st, L := L, ML := ML, OFF := OFF, fault := fault } })

/-- R65, R220: the same for every turn of the two units: DIV never touches OUT, SIZE or ENC; ENC never touches TOK, DIV or
OVF_FLAG. -/
def Obligations.UnitsTouchOnlyTheirEnds : Prop :=
  ∀ s t : State,
    (divTurn s = .next t →
      t.enc = s.enc ∧ t.cfg = s.cfg ∧ t.env = s.env ∧ t.agenda = s.agenda ∧ t.tick = s.tick ∧
      t.mem.out = s.mem.out ∧ t.mem.size = s.mem.size ∧
      (t.mem.tok = s.mem.tok ∨ t.mem.tok = s.mem.tok.tail) ∧
      (∃ bs, t.mem.lit = s.mem.lit ++ bs ∧ bs.length ≤ 1) ∧ (∃ ds, t.mem.desc = s.mem.desc ++ ds ∧ ds.length ≤ 1)) ∧
    (encTurn s = .next t →
      t.div = s.div ∧ t.ovfFlag = s.ovfFlag ∧ t.cfg = s.cfg ∧ t.env = s.env ∧ t.agenda = s.agenda ∧ t.tick = s.tick ∧
      t.mem.tok = s.mem.tok ∧
      (t.mem.lit = s.mem.lit ∨ t.mem.lit = s.mem.lit.tail) ∧ (t.mem.desc = s.mem.desc ∨ t.mem.desc = s.mem.desc.tail) ∧
      (∃ bs, t.mem.out = s.mem.out ++ bs ∧ bs.length ≤ 1) ∧ (∃ ns, t.mem.size = s.mem.size ++ ns ∧ ns.length ≤ 1))

/-- R290, R273: what reset leaves, for every configuration, in every one of its lanes, and that a reset command leaves the same in
a running lane. That reset is a command, and that it keeps the configuration, is the model's choice (notes/assumptions/16.md). The
host's own fields are the model's choice too and are not named. -/
def Obligations.ResetValues : Prop :=
  (∀ c : Config,
    let s := State.resetWith c
    s.div.st = .idle ∧ s.div.n = 0 ∧ s.div.pos = 0 ∧ s.div.litCount = 0 ∧ s.div.ovf = false ∧ s.div.fault = none ∧
    s.ovfFlag = false ∧
    s.enc.st = .idle ∧ s.enc.n = 0 ∧ s.enc.L = 0 ∧ s.enc.ML = 0 ∧ s.enc.OFF = 0 ∧ s.enc.rem = 0 ∧ s.enc.litLeft = 0 ∧
    s.enc.size = 0 ∧ s.enc.fault = none ∧
    s.mem.tok = [] ∧ s.mem.lit = [] ∧ s.mem.desc = [] ∧ s.mem.out = [] ∧ s.mem.size = [] ∧
    s.cfg.maxLitCount = c.maxLitCount ∧
    divTurn s = .next s ∧ encTurn s = .next s ∧
    (resetLanes c).length = c.lanes ∧ ∀ lane ∈ resetLanes c, lane = s) ∧
  State.reset.cfg.maxLitCount = 4096 ∧ Sys2Proof.core.reset = State.resetWith State.reset.cfg ∧
  ∀ s : State, ∃ t, runCommand .reset s = .next t ∧
    t.div = (State.resetWith s.cfg).div ∧ t.ovfFlag = false ∧ t.enc = (State.resetWith s.cfg).enc ∧
    t.mem = (State.resetWith s.cfg).mem ∧ t.cfg = s.cfg

/-- R61: memory keeps its canonical form: no step leaves a channel above its capacity. -/
def Obligations.ChannelsStayBounded : Prop :=
  ∀ s t : State, Memory.wf s.cfg s.mem = true → step s = .next t → Memory.wf t.cfg t.mem = true

/-- R71, R121 to R125, R134, R135, R165 to R171, R262, R27: the invariant of a lane whose LIT and DESC only DIV feeds, kept by
every step from every state. -/
def Obligations.PipelineInvariantKept : Prop :=
  ∀ s t : State, PipelineInv s → step s = .next t → PipelineInv t

/-- The invariant and the bounds of the channels hold at reset, for every configuration. -/
def Obligations.PipelineInvariantAtReset : Prop :=
  (∀ c : Config, PipelineInv (State.resetWith c) ∧ Memory.wf c (State.resetWith c).mem = true) ∧ PipelineInv State.reset

/-- R226: when both units are done, LIT and DESC are empty. -/
def Obligations.FinishedBlockLeavesNoData : Prop :=
  ∀ s : State, PipelineInv s → s.div.st = .done → s.enc.st = .done → s.mem.lit = [] ∧ s.mem.desc = []

/-- R293, R298: no deadlock. In a lane that keeps the invariant, with every depth at least 1, LIT at least as deep as the
block is long, OUT and SIZE drained and a token there whenever DIV reads one, some unit has an enabled step until both
are done. -/
def Obligations.NoDeadlockWithDeepLit : Prop :=
  ∀ s : State, PipelineInv s → ¬ faulted s → ¬ (s.div.st = .idle ∧ s.enc.st = .idle) →
    ¬ (s.div.st = .done ∧ s.enc.st = .done) →
    1 ≤ s.cfg.descDepth → 1 ≤ s.cfg.outDepth → 1 ≤ s.cfg.sizeDepth → s.div.n.toNat ≤ s.cfg.litDepth →
    s.mem.out = [] → s.mem.size = [] → (s.div.st = .readToken → s.mem.tok ≠ []) →
    divReady s = true ∨ encReady s = true

/-- R293, R264: the deadlock of a LIT channel too shallow for a run: DIV waits for room on LIT, ENC for a descriptor, and no
turn of a channel's host agent lifts either. -/
def Obligations.ShallowLitDeadlock : Prop :=
  ∀ (s : State) (ch : Byte) (off : Half) (rest : List Word),
    let stuck (u : State) := u.div.st = .readToken ∧ (∃ ts, u.mem.tok = tokenWord ch 0 off :: ts) ∧
      u.cfg.litDepth ≤ u.mem.lit.length ∧ u.enc.st = .readDescriptor ∧ u.mem.desc = []
    s.div.st = .readToken → s.mem.tok = tokenWord ch 0 off :: rest → s.cfg.litDepth ≤ s.mem.lit.length →
    s.enc.st = .readDescriptor → s.mem.desc = [] →
    divTurn s = .next s ∧ encTurn s = .next s ∧
    ∀ a, a = Agent.tokProducer ∨ a = .outConsumer ∨ a = .sizeConsumer → ∃ t, act a s = .next t ∧ stuck t

/-- R263: a model fault is permanent: while no reset is given, no step changes a register of a unit in its fault state. -/
def Obligations.FaultIsPermanent : Prop :=
  ∀ s t : State, NoReset s → step s = .next t →
    (s.div.st = .fault → t.div = s.div) ∧ (s.enc.st = .fault → t.enc = s.enc) ∧ NoReset t

/-- R26, R27, R129: OVF_FLAG is written only by the step that ends a block, as a copy of div.ovf, and div.ovf is never
written false again within a block. -/
def Obligations.OverflowFlagWriters : Prop :=
  ∀ s t : State, NoReset s → step s = .next t →
    (t.ovfFlag = s.ovfFlag ∨ (s.div.st = .emitEnd ∧ t.div.st = .done ∧ t.ovfFlag = s.div.ovf)) ∧
    (divInBlock s.div = true → s.div.ovf = true → t.div.ovf = true)

/-- R37, R74, R223, R233, R292: construction refuses a malformed configuration. That a channel depth of 0, outside R6's range, is
malformed like the two cases R233 names, is the model's reading (notes/assumptions/26.md), and that LANES is not checked is the
model's choice (notes/assumptions/27.md). No step changes the configuration, but a change of
MAX_LIT_COUNT to a value other than 0 while START would be allowed; so an accepted configuration stays accepted. -/
def Obligations.ConfigurationIsFrozen : Prop :=
  (∀ c : Config,
    let wellConfigured := c.maxLitCount ≠ 0 ∧ c.minBlockSize < 65536 ∧ 1 ≤ c.tokDepth ∧ 1 ≤ c.litDepth ∧
      1 ≤ c.descDepth ∧ 1 ≤ c.outDepth ∧ 1 ≤ c.sizeDepth
    (wellConfigured →
      construct c = .next (State.resetWith c) ∧ constructLanes c = .next (List.replicate c.lanes (State.resetWith c))) ∧
    (¬ wellConfigured → construct c = .refused .configMalformed ∧ constructLanes c = .refused .configMalformed)) ∧
  ∀ s t : State, step s = .next t →
    (t.cfg = s.cfg ∨ (startAllowed s = true ∧ ∃ m : Word, m ≠ 0 ∧ t.cfg = { s.cfg with maxLitCount := m })) ∧
    (configAccepted s.cfg = true → configAccepted t.cfg = true)

/-- R69, R266, and the premise of 95_test_vectors.md section 10: where both units have an enabled step, either order of the
two gives the same state, so the interleaving of DIV and ENC does not show. -/
def Obligations.UnitsCommute : Prop :=
  ∀ s : State, divReady s = true → encReady s = true →
    ∃ a b t, divTurn s = .next a ∧ encTurn s = .next b ∧ encTurn a = .next t ∧ divTurn b = .next t

/-- R21, R234, R273, R290: a step of one lane depends on no other lane and changes none, unless it is a reset, which resets
every lane together (reset as a command: notes/assumptions/16.md). -/
def Obligations.LaneIsolation : Prop :=
  ∀ (k : Nat) (lanes lanes' : List State), stepLane k lanes = .next lanes' →
    lanes'.length = lanes.length ∧
    (lanes[k]? = none → lanes' = lanes) ∧
    (∀ s, lanes[k]? = some s →
      (∃ t, step s = .next t ∧ lanes'[k]? = some t) ∧
      (givesReset s = false → ∀ j, j ≠ k → lanes'[j]? = lanes[j]?) ∧
      (givesReset s = true → ∀ (j : Nat) (u : State), lanes[j]? = some u → ∃ v, lanes'[j]? = some v ∧
        v.div = (State.resetWith u.cfg).div ∧ v.ovfFlag = false ∧ v.enc = (State.resetWith u.cfg).enc ∧
        v.mem = (State.resetWith u.cfg).mem ∧ v.cfg = u.cfg))

/-- R300, R226, with R222, R224, R293 and R298: a block run ends under weak fairness. In a weakly fair run of the pipeline whose
tokens are supplied, with LIT at least as deep as the block is long and no reset, a block in progress comes to both units done with
LIT and DESC empty, or to a fault; and if the host starts nothing further, its outputs are all taken in the end (R226). -/
def Obligations.FairBlockEnds : Prop :=
  ∀ r : Nat → State, IsRun r → WeaklyFair r → TokensSupplied r →
    PipelineInv (r 0) → NoReset (r 0) → configAccepted (r 0).cfg = true →
    ¬ ((r 0).div.st = .idle ∧ (r 0).enc.st = .idle) → (r 0).div.n.toNat ≤ (r 0).cfg.litDepth →
    (∃ k, faulted (r k) ∨
      ((r k).div.st = .done ∧ (r k).enc.st = .done ∧ (r k).mem.lit = [] ∧ (r k).mem.desc = [])) ∧
    ((r 0).env.cmds = [] → ∃ k, faulted (r k) ∨ finished (r k))
end

