-- ==== Sys2Proof/Laws/Bits.lean ====
section
/-! SUPPORT. A MatchToken is its three fields (R80) and a Descriptor its three fields (R85): packing and reading are inverse. -/

namespace Sys2Proof

/-- Bit `i` of a MatchToken, by field (R80). -/
theorem getLsbD_tokenWord (ch raw : Byte) (off : Half) (i : Nat) :
    (tokenWord ch raw off).getLsbD i =
      if i < 8 then ch.getLsbD i else if i < 16 then raw.getLsbD (i - 8) else off.getLsbD (i - 16) := by
  refine (BitVec.getLsbD_append (x := off ++ raw) (y := ch)).trans ?_
  have h : i - 8 < 8 ↔ i < 16 := by omega
  rw [BitVec.getLsbD_append]
  simp only [h, Nat.sub_sub, Nat.reduceAdd]

/-- Bit `i` of a Descriptor, by field (R85). -/
theorem getLsbD_pack (L : Word) (ML OFF : Half) (i : Nat) :
    (pack L ML OFF).getLsbD i =
      if i < 16 then ML.getLsbD i else if i < 32 then OFF.getLsbD (i - 16) else L.getLsbD (i - 32) := by
  refine (BitVec.getLsbD_append (x := L ++ OFF) (y := ML)).trans ?_
  have h : i - 16 < 16 ↔ i < 32 := by omega
  rw [BitVec.getLsbD_append]
  simp only [h, Nat.sub_sub, Nat.reduceAdd]

@[simp] theorem litChar_tokenWord (ch raw : Byte) (off : Half) : litChar (tokenWord ch raw off) = ch := by
  apply BitVec.eq_of_getLsbD_eq
  intro i hi
  rw [litChar, BitVec.getLsbD_extractLsb', getLsbD_tokenWord]
  simp [hi]

@[simp] theorem rawLen_tokenWord (ch raw : Byte) (off : Half) : rawLen (tokenWord ch raw off) = raw := by
  apply BitVec.eq_of_getLsbD_eq
  intro i hi
  rw [rawLen, BitVec.getLsbD_extractLsb', getLsbD_tokenWord]
  simp [hi, show ¬ 8 + i < 8 by omega, show 8 + i < 16 by omega]

@[simp] theorem tokOffset_tokenWord (ch raw : Byte) (off : Half) : tokOffset (tokenWord ch raw off) = off := by
  apply BitVec.eq_of_getLsbD_eq
  intro i hi
  rw [tokOffset, BitVec.getLsbD_extractLsb', getLsbD_tokenWord]
  simp [hi, show ¬ 16 + i < 8 by omega, show ¬ 16 + i < 16 by omega]

@[simp] theorem descL_pack (L : Word) (ML OFF : Half) : descL (pack L ML OFF) = L := by
  apply BitVec.eq_of_getLsbD_eq
  intro i hi
  rw [descL, BitVec.getLsbD_extractLsb', getLsbD_pack]
  simp [hi, show ¬ 32 + i < 16 by omega, show ¬ 32 + i < 32 by omega]

@[simp] theorem descOFF_pack (L : Word) (ML OFF : Half) : descOFF (pack L ML OFF) = OFF := by
  apply BitVec.eq_of_getLsbD_eq
  intro i hi
  rw [descOFF, BitVec.getLsbD_extractLsb', getLsbD_pack]
  simp [hi, show ¬ 16 + i < 16 by omega, show 16 + i < 32 by omega]

@[simp] theorem descML_pack (L : Word) (ML OFF : Half) : descML (pack L ML OFF) = ML := by
  apply BitVec.eq_of_getLsbD_eq
  intro i hi
  rw [descML, BitVec.getLsbD_extractLsb', getLsbD_pack]
  simp [hi]

/-- A token is determined by its fields. -/
theorem token_ext {w w' : Word} (hc : litChar w = litChar w') (hr : rawLen w = rawLen w')
    (ho : tokOffset w = tokOffset w') : w = w' := by
  apply BitVec.eq_of_getLsbD_eq
  intro i hi
  have hc := congrArg (fun v => v.getLsbD i) hc
  have hr := congrArg (fun v => v.getLsbD (i - 8)) hr
  have ho := congrArg (fun v => v.getLsbD (i - 16)) ho
  simp only [litChar, rawLen, tokOffset, BitVec.getLsbD_extractLsb'] at hc hr ho
  by_cases h8 : i < 8
  · simpa [h8] using hc
  by_cases h16 : i < 16
  · simpa [show i - 8 < 8 by omega, show 8 + (i - 8) = i by omega] using hr
  · simpa [show i - 16 < 16 by omega, show 16 + (i - 16) = i by omega] using ho

/-- A descriptor is determined by its fields. -/
theorem desc_ext {d d' : DWord} (hL : descL d = descL d') (hO : descOFF d = descOFF d') (hM : descML d = descML d') :
    d = d' := by
  apply BitVec.eq_of_getLsbD_eq
  intro i hi
  have hL := congrArg (fun v => v.getLsbD (i - 32)) hL
  have hO := congrArg (fun v => v.getLsbD (i - 16)) hO
  have hM := congrArg (fun v => v.getLsbD i) hM
  simp only [descL, descOFF, descML, BitVec.getLsbD_extractLsb'] at hL hO hM
  by_cases h16 : i < 16
  · simpa [h16] using hM
  by_cases h32 : i < 32
  · simpa [show i - 16 < 16 by omega, show 16 + (i - 16) = i by omega] using hO
  · simpa [show i - 32 < 32 by omega, show 32 + (i - 32) = i by omega] using hL

@[simp] theorem tokenWord_fields (w : Word) : tokenWord (litChar w) (rawLen w) (tokOffset w) = w :=
  token_ext (by simp) (by simp) (by simp)

@[simp] theorem pack_fields (d : DWord) : pack (descL d) (descML d) (descOFF d) = d :=
  desc_ext (by simp) (by simp) (by simp)

/-- Only the all-zero fields pack to the END word (R164: all 64 bits). -/
theorem pack_eq_zero {L : Word} {ML OFF : Half} : pack L ML OFF = 0 ↔ L = 0 ∧ ML = 0 ∧ OFF = 0 := by
  constructor
  · intro h
    refine ⟨?_, ?_, ?_⟩
    · simpa using (congrArg descL h).trans (by decide : descL 0 = 0)
    · simpa using (congrArg descML h).trans (by decide : descML 0 = 0)
    · simpa using (congrArg descOFF h).trans (by decide : descOFF 0 = 0)
  · rintro ⟨rfl, rfl, rfl⟩; rfl

end Sys2Proof
end

