-- ==== Sys2Proof/Laws/State.lean ====
section
/-! SUPPORT. What each update of State, and each operation on a channel, does to each field. -/

namespace Sys2Proof.Machine

section withDiv
variable (s : State) (x : Divider)
@[simp] theorem State.withDiv_div : (s.withDiv x).div = x := rfl
@[simp] theorem State.withDiv_ovfFlag : (s.withDiv x).ovfFlag = s.ovfFlag := rfl
@[simp] theorem State.withDiv_enc : (s.withDiv x).enc = s.enc := rfl
@[simp] theorem State.withDiv_mem : (s.withDiv x).mem = s.mem := rfl
@[simp] theorem State.withDiv_cfg : (s.withDiv x).cfg = s.cfg := rfl
@[simp] theorem State.withDiv_env : (s.withDiv x).env = s.env := rfl
@[simp] theorem State.withDiv_agenda : (s.withDiv x).agenda = s.agenda := rfl
@[simp] theorem State.withDiv_tick : (s.withDiv x).tick = s.tick := rfl
end withDiv

section withEnc
variable (s : State) (x : Encoder)
@[simp] theorem State.withEnc_div : (s.withEnc x).div = s.div := rfl
@[simp] theorem State.withEnc_ovfFlag : (s.withEnc x).ovfFlag = s.ovfFlag := rfl
@[simp] theorem State.withEnc_enc : (s.withEnc x).enc = x := rfl
@[simp] theorem State.withEnc_mem : (s.withEnc x).mem = s.mem := rfl
@[simp] theorem State.withEnc_cfg : (s.withEnc x).cfg = s.cfg := rfl
@[simp] theorem State.withEnc_env : (s.withEnc x).env = s.env := rfl
@[simp] theorem State.withEnc_agenda : (s.withEnc x).agenda = s.agenda := rfl
@[simp] theorem State.withEnc_tick : (s.withEnc x).tick = s.tick := rfl
end withEnc

section withMem
variable (s : State) (x : Memory)
@[simp] theorem State.withMem_div : (s.withMem x).div = s.div := rfl
@[simp] theorem State.withMem_ovfFlag : (s.withMem x).ovfFlag = s.ovfFlag := rfl
@[simp] theorem State.withMem_enc : (s.withMem x).enc = s.enc := rfl
@[simp] theorem State.withMem_mem : (s.withMem x).mem = x := rfl
@[simp] theorem State.withMem_cfg : (s.withMem x).cfg = s.cfg := rfl
@[simp] theorem State.withMem_env : (s.withMem x).env = s.env := rfl
@[simp] theorem State.withMem_agenda : (s.withMem x).agenda = s.agenda := rfl
@[simp] theorem State.withMem_tick : (s.withMem x).tick = s.tick := rfl
end withMem

section withFlag
variable (s : State) (x : Bool)
@[simp] theorem State.withFlag_div : (s.withFlag x).div = s.div := rfl
@[simp] theorem State.withFlag_ovfFlag : (s.withFlag x).ovfFlag = x := rfl
@[simp] theorem State.withFlag_enc : (s.withFlag x).enc = s.enc := rfl
@[simp] theorem State.withFlag_mem : (s.withFlag x).mem = s.mem := rfl
@[simp] theorem State.withFlag_cfg : (s.withFlag x).cfg = s.cfg := rfl
@[simp] theorem State.withFlag_env : (s.withFlag x).env = s.env := rfl
@[simp] theorem State.withFlag_agenda : (s.withFlag x).agenda = s.agenda := rfl
@[simp] theorem State.withFlag_tick : (s.withFlag x).tick = s.tick := rfl
end withFlag

section withCfg
variable (s : State) (x : Config)
@[simp] theorem State.withCfg_div : (s.withCfg x).div = s.div := rfl
@[simp] theorem State.withCfg_ovfFlag : (s.withCfg x).ovfFlag = s.ovfFlag := rfl
@[simp] theorem State.withCfg_enc : (s.withCfg x).enc = s.enc := rfl
@[simp] theorem State.withCfg_mem : (s.withCfg x).mem = s.mem := rfl
@[simp] theorem State.withCfg_cfg : (s.withCfg x).cfg = x := rfl
@[simp] theorem State.withCfg_env : (s.withCfg x).env = s.env := rfl
@[simp] theorem State.withCfg_agenda : (s.withCfg x).agenda = s.agenda := rfl
@[simp] theorem State.withCfg_tick : (s.withCfg x).tick = s.tick := rfl
end withCfg

section withEnv
variable (s : State) (x : Environment)
@[simp] theorem State.withEnv_div : (s.withEnv x).div = s.div := rfl
@[simp] theorem State.withEnv_ovfFlag : (s.withEnv x).ovfFlag = s.ovfFlag := rfl
@[simp] theorem State.withEnv_enc : (s.withEnv x).enc = s.enc := rfl
@[simp] theorem State.withEnv_mem : (s.withEnv x).mem = s.mem := rfl
@[simp] theorem State.withEnv_cfg : (s.withEnv x).cfg = s.cfg := rfl
@[simp] theorem State.withEnv_env : (s.withEnv x).env = x := rfl
@[simp] theorem State.withEnv_agenda : (s.withEnv x).agenda = s.agenda := rfl
@[simp] theorem State.withEnv_tick : (s.withEnv x).tick = s.tick := rfl
end withEnv

section withAgenda
variable (s : State) (x : List Agent)
@[simp] theorem State.withAgenda_div : (s.withAgenda x).div = s.div := rfl
@[simp] theorem State.withAgenda_ovfFlag : (s.withAgenda x).ovfFlag = s.ovfFlag := rfl
@[simp] theorem State.withAgenda_enc : (s.withAgenda x).enc = s.enc := rfl
@[simp] theorem State.withAgenda_mem : (s.withAgenda x).mem = s.mem := rfl
@[simp] theorem State.withAgenda_cfg : (s.withAgenda x).cfg = s.cfg := rfl
@[simp] theorem State.withAgenda_env : (s.withAgenda x).env = s.env := rfl
@[simp] theorem State.withAgenda_agenda : (s.withAgenda x).agenda = x := rfl
@[simp] theorem State.withAgenda_tick : (s.withAgenda x).tick = s.tick := rfl
end withAgenda

section withTick
variable (s : State) (x : Nat)
@[simp] theorem State.withTick_div : (s.withTick x).div = s.div := rfl
@[simp] theorem State.withTick_ovfFlag : (s.withTick x).ovfFlag = s.ovfFlag := rfl
@[simp] theorem State.withTick_enc : (s.withTick x).enc = s.enc := rfl
@[simp] theorem State.withTick_mem : (s.withTick x).mem = s.mem := rfl
@[simp] theorem State.withTick_cfg : (s.withTick x).cfg = s.cfg := rfl
@[simp] theorem State.withTick_env : (s.withTick x).env = s.env := rfl
@[simp] theorem State.withTick_agenda : (s.withTick x).agenda = s.agenda := rfl
@[simp] theorem State.withTick_tick : (s.withTick x).tick = x := rfl
end withTick

section pushTok
variable (m : Memory) (x : Word)
@[simp] theorem Memory.pushTok_tok : (m.pushTok x).tok = m.tok ++ [x] := rfl
@[simp] theorem Memory.pushTok_lit : (m.pushTok x).lit = m.lit := rfl
@[simp] theorem Memory.pushTok_desc : (m.pushTok x).desc = m.desc := rfl
@[simp] theorem Memory.pushTok_out : (m.pushTok x).out = m.out := rfl
@[simp] theorem Memory.pushTok_size : (m.pushTok x).size = m.size := rfl
end pushTok

section popTok
variable (m : Memory)
@[simp] theorem Memory.popTok_tok : m.popTok.tok = m.tok.tail := rfl
@[simp] theorem Memory.popTok_lit : m.popTok.lit = m.lit := rfl
@[simp] theorem Memory.popTok_desc : m.popTok.desc = m.desc := rfl
@[simp] theorem Memory.popTok_out : m.popTok.out = m.out := rfl
@[simp] theorem Memory.popTok_size : m.popTok.size = m.size := rfl
end popTok

section pushLit
variable (m : Memory) (x : Byte)
@[simp] theorem Memory.pushLit_tok : (m.pushLit x).tok = m.tok := rfl
@[simp] theorem Memory.pushLit_lit : (m.pushLit x).lit = m.lit ++ [x] := rfl
@[simp] theorem Memory.pushLit_desc : (m.pushLit x).desc = m.desc := rfl
@[simp] theorem Memory.pushLit_out : (m.pushLit x).out = m.out := rfl
@[simp] theorem Memory.pushLit_size : (m.pushLit x).size = m.size := rfl
end pushLit

section popLit
variable (m : Memory)
@[simp] theorem Memory.popLit_tok : m.popLit.tok = m.tok := rfl
@[simp] theorem Memory.popLit_lit : m.popLit.lit = m.lit.tail := rfl
@[simp] theorem Memory.popLit_desc : m.popLit.desc = m.desc := rfl
@[simp] theorem Memory.popLit_out : m.popLit.out = m.out := rfl
@[simp] theorem Memory.popLit_size : m.popLit.size = m.size := rfl
end popLit

section pushDesc
variable (m : Memory) (x : DWord)
@[simp] theorem Memory.pushDesc_tok : (m.pushDesc x).tok = m.tok := rfl
@[simp] theorem Memory.pushDesc_lit : (m.pushDesc x).lit = m.lit := rfl
@[simp] theorem Memory.pushDesc_desc : (m.pushDesc x).desc = m.desc ++ [x] := rfl
@[simp] theorem Memory.pushDesc_out : (m.pushDesc x).out = m.out := rfl
@[simp] theorem Memory.pushDesc_size : (m.pushDesc x).size = m.size := rfl
end pushDesc

section popDesc
variable (m : Memory)
@[simp] theorem Memory.popDesc_tok : m.popDesc.tok = m.tok := rfl
@[simp] theorem Memory.popDesc_lit : m.popDesc.lit = m.lit := rfl
@[simp] theorem Memory.popDesc_desc : m.popDesc.desc = m.desc.tail := rfl
@[simp] theorem Memory.popDesc_out : m.popDesc.out = m.out := rfl
@[simp] theorem Memory.popDesc_size : m.popDesc.size = m.size := rfl
end popDesc

section pushOut
variable (m : Memory) (x : Byte)
@[simp] theorem Memory.pushOut_tok : (m.pushOut x).tok = m.tok := rfl
@[simp] theorem Memory.pushOut_lit : (m.pushOut x).lit = m.lit := rfl
@[simp] theorem Memory.pushOut_desc : (m.pushOut x).desc = m.desc := rfl
@[simp] theorem Memory.pushOut_out : (m.pushOut x).out = m.out ++ [x] := rfl
@[simp] theorem Memory.pushOut_size : (m.pushOut x).size = m.size := rfl
end pushOut

section popOut
variable (m : Memory)
@[simp] theorem Memory.popOut_tok : m.popOut.tok = m.tok := rfl
@[simp] theorem Memory.popOut_lit : m.popOut.lit = m.lit := rfl
@[simp] theorem Memory.popOut_desc : m.popOut.desc = m.desc := rfl
@[simp] theorem Memory.popOut_out : m.popOut.out = m.out.tail := rfl
@[simp] theorem Memory.popOut_size : m.popOut.size = m.size := rfl
end popOut

section pushSize
variable (m : Memory) (x : Word)
@[simp] theorem Memory.pushSize_tok : (m.pushSize x).tok = m.tok := rfl
@[simp] theorem Memory.pushSize_lit : (m.pushSize x).lit = m.lit := rfl
@[simp] theorem Memory.pushSize_desc : (m.pushSize x).desc = m.desc := rfl
@[simp] theorem Memory.pushSize_out : (m.pushSize x).out = m.out := rfl
@[simp] theorem Memory.pushSize_size : (m.pushSize x).size = m.size ++ [x] := rfl
end pushSize

section popSize
variable (m : Memory)
@[simp] theorem Memory.popSize_tok : m.popSize.tok = m.tok := rfl
@[simp] theorem Memory.popSize_lit : m.popSize.lit = m.lit := rfl
@[simp] theorem Memory.popSize_desc : m.popSize.desc = m.desc := rfl
@[simp] theorem Memory.popSize_out : m.popSize.out = m.out := rfl
@[simp] theorem Memory.popSize_size : m.popSize.size = m.size.tail := rfl
end popSize

/-! The enabling conditions of a push (R61) as propositions. -/

@[simp] theorem State.tokRoom_iff (s : State) : s.tokRoom = true ↔ s.mem.tok.length < s.cfg.tokDepth := decide_eq_true_iff
@[simp] theorem State.litRoom_iff (s : State) : s.litRoom = true ↔ s.mem.lit.length < s.cfg.litDepth := decide_eq_true_iff
@[simp] theorem State.descRoom_iff (s : State) : s.descRoom = true ↔ s.mem.desc.length < s.cfg.descDepth := decide_eq_true_iff
@[simp] theorem State.outRoom_iff (s : State) : s.outRoom = true ↔ s.mem.out.length < s.cfg.outDepth := decide_eq_true_iff
@[simp] theorem State.sizeRoom_iff (s : State) : s.sizeRoom = true ↔ s.mem.size.length < s.cfg.sizeDepth := decide_eq_true_iff

end Sys2Proof.Machine
end

