-- ==== Sys2Proof/Laws/Ops.lean ====
section
/-! SUPPORT. One lemma per shared operation that says what it can do, and the canonical form of memory under every channel
operation. -/

namespace Sys2Proof.Machine

/-! ### Memory keeps its canonical form (R61) -/

theorem Memory.wf_iff (c : Config) (m : Memory) :
    Memory.wf c m = true ↔
      m.tok.length ≤ c.tokDepth ∧ m.lit.length ≤ c.litDepth ∧ m.desc.length ≤ c.descDepth ∧
        m.out.length ≤ c.outDepth ∧ m.size.length ≤ c.sizeDepth := by
  simp [Memory.wf, and_assoc]

theorem Memory.wf_reset (c : Config) : Memory.wf c Memory.reset = true := by
  simp [Memory.wf_iff, Memory.reset]

theorem Memory.wf_pushTok {c : Config} {m : Memory} (h : Memory.wf c m = true) (x : Word)
    (room : m.tok.length < c.tokDepth) : Memory.wf c (m.pushTok x) = true := by
  rw [Memory.wf_iff] at h ⊢
  simp only [Memory.pushTok_tok, Memory.pushTok_lit, Memory.pushTok_desc, Memory.pushTok_out, Memory.pushTok_size,
    List.length_append, List.length_singleton]
  omega

theorem Memory.wf_popTok {c : Config} {m : Memory} (h : Memory.wf c m = true) : Memory.wf c m.popTok = true := by
  rw [Memory.wf_iff] at h ⊢
  simp only [Memory.popTok_tok, Memory.popTok_lit, Memory.popTok_desc, Memory.popTok_out, Memory.popTok_size,
    List.length_tail]
  omega

theorem Memory.wf_pushLit {c : Config} {m : Memory} (h : Memory.wf c m = true) (x : Byte)
    (room : m.lit.length < c.litDepth) : Memory.wf c (m.pushLit x) = true := by
  rw [Memory.wf_iff] at h ⊢
  simp only [Memory.pushLit_tok, Memory.pushLit_lit, Memory.pushLit_desc, Memory.pushLit_out, Memory.pushLit_size,
    List.length_append, List.length_singleton]
  omega

theorem Memory.wf_popLit {c : Config} {m : Memory} (h : Memory.wf c m = true) : Memory.wf c m.popLit = true := by
  rw [Memory.wf_iff] at h ⊢
  simp only [Memory.popLit_tok, Memory.popLit_lit, Memory.popLit_desc, Memory.popLit_out, Memory.popLit_size,
    List.length_tail]
  omega

theorem Memory.wf_pushDesc {c : Config} {m : Memory} (h : Memory.wf c m = true) (x : DWord)
    (room : m.desc.length < c.descDepth) : Memory.wf c (m.pushDesc x) = true := by
  rw [Memory.wf_iff] at h ⊢
  simp only [Memory.pushDesc_tok, Memory.pushDesc_lit, Memory.pushDesc_desc, Memory.pushDesc_out, Memory.pushDesc_size,
    List.length_append, List.length_singleton]
  omega

theorem Memory.wf_popDesc {c : Config} {m : Memory} (h : Memory.wf c m = true) : Memory.wf c m.popDesc = true := by
  rw [Memory.wf_iff] at h ⊢
  simp only [Memory.popDesc_tok, Memory.popDesc_lit, Memory.popDesc_desc, Memory.popDesc_out, Memory.popDesc_size,
    List.length_tail]
  omega

theorem Memory.wf_pushOut {c : Config} {m : Memory} (h : Memory.wf c m = true) (x : Byte)
    (room : m.out.length < c.outDepth) : Memory.wf c (m.pushOut x) = true := by
  rw [Memory.wf_iff] at h ⊢
  simp only [Memory.pushOut_tok, Memory.pushOut_lit, Memory.pushOut_desc, Memory.pushOut_out, Memory.pushOut_size,
    List.length_append, List.length_singleton]
  omega

theorem Memory.wf_popOut {c : Config} {m : Memory} (h : Memory.wf c m = true) : Memory.wf c m.popOut = true := by
  rw [Memory.wf_iff] at h ⊢
  simp only [Memory.popOut_tok, Memory.popOut_lit, Memory.popOut_desc, Memory.popOut_out, Memory.popOut_size,
    List.length_tail]
  omega

theorem Memory.wf_pushSize {c : Config} {m : Memory} (h : Memory.wf c m = true) (x : Word)
    (room : m.size.length < c.sizeDepth) : Memory.wf c (m.pushSize x) = true := by
  rw [Memory.wf_iff] at h ⊢
  simp only [Memory.pushSize_tok, Memory.pushSize_lit, Memory.pushSize_desc, Memory.pushSize_out, Memory.pushSize_size,
    List.length_append, List.length_singleton]
  omega

theorem Memory.wf_popSize {c : Config} {m : Memory} (h : Memory.wf c m = true) : Memory.wf c m.popSize = true := by
  rw [Memory.wf_iff] at h ⊢
  simp only [Memory.popSize_tok, Memory.popSize_lit, Memory.popSize_desc, Memory.popSize_out, Memory.popSize_size,
    List.length_tail]
  omega

/-- A push onto one channel and a pop off another commute with each other on the channel between two units: popping the
head of a non-empty channel and pushing at its tail give the same elements in either order (R61). -/
theorem tail_append_singleton {α : Type} {l : List α} (h : l ≠ []) (x : α) : (l ++ [x]).tail = l.tail ++ [x] := by
  cases l with
  | nil => exact absurd rfl h
  | cons a l => rfl

/-! ### Enabling conditions -/

theorem tokenAtHead_iff (w : Word) (s : State) :
    tokenAtHead w s = true ↔ s.div.st = .readToken ∧ s.mem.tok.head? = some w := by
  simp [tokenAtHead]

theorem descAtHead_iff (d : DWord) (s : State) : descAtHead d s = true ↔ s.mem.desc.head? = some d := by
  simp [descAtHead]

theorem atCeiling_iff (s : State) : atCeiling s = true ↔ s.cfg.maxLitCount.toNat ≤ s.div.litCount.toNat := by
  simp [atCeiling]

theorem overshoots_iff (raw : Byte) (s : State) :
    overshoots raw s = true ↔ s.div.n.toNat < s.div.pos.toNat + raw.toNat := by
  simp [overshoots]

theorem startAllowed_iff (s : State) :
    startAllowed s = true ↔
      (s.div.st = .idle ∨ s.div.st = .done) ∧ (s.enc.st = .idle ∨ s.enc.st = .done) ∧ s.mem.size = [] ∧
        s.env.flagRead = true := by
  simp [startAllowed, and_assoc]

/-! ### Steps -/

/-- All a guarded step can do (R10, R264). -/
theorem fire_next_iff {ready : Bool} {after before t : State} :
    fire ready after before = .next t ↔ t = if ready then after else before := by
  constructor
  · intro h; injection h with h; exact h.symm
  · rintro rfl; rfl

@[simp] theorem fire_true (after before : State) : fire true after before = .next after := rfl

@[simp] theorem fire_false (after before : State) : fire false after before = .next before := rfl

/-- Emitting a byte when the size does not overflow (R165, R167 to R171). -/
theorem emit_of_ne {b : Byte} {m : Memory} {e : Encoder} {s : State} (h : s.enc.size ≠ BitVec.allOnes 32) :
    emit b m e s = (s.withMem (m.pushOut b)).withEnc { e with size := s.enc.size + 1 } := if_neg h

/-- Emitting a byte when the size would overflow (R181). -/
theorem emit_of_eq {b : Byte} {m : Memory} {e : Encoder} {s : State} (h : s.enc.size = BitVec.allOnes 32) :
    emit b m e s = raiseEnc (.sizeOverflow s.enc.st) s := if_pos h

/-- All that taking a descriptor other than END can do (R163, R164). -/
theorem takeDescriptor_cases {L : Word} {ML OFF : Half} {s t : State} (h : takeDescriptor L ML OFF s = .next t) :
    (s.enc.st = .readDescriptor ∧ s.mem.desc.head? = some (pack L ML OFF) ∧ t = latchEffect L ML OFF s) ∨
    (s.enc.st = .emptyDiscard ∧ s.mem.desc.head? = some (pack L ML OFF) ∧
      t = notSentinelEffect (pack L ML OFF) s) ∨ t = s := by
  unfold takeDescriptor at h
  split at h
  · rename_i hst
    rw [fire_next_iff] at h
    by_cases hd : descAtHead (pack L ML OFF) s = true
    · exact .inl ⟨hst, (descAtHead_iff _ _).1 hd, by simpa [hd] using h⟩
    · exact .inr (.inr (by simpa [hd] using h))
  · rename_i hst
    rw [fire_next_iff] at h
    by_cases hd : descAtHead (pack L ML OFF) s = true
    · exact .inr (.inl ⟨hst, (descAtHead_iff _ _).1 hd, by simpa [hd] using h⟩)
    · exact .inr (.inr (by simpa [hd] using h))
  · injection h with h; exact .inr (.inr h.symm)

/-- All that START can do (R223). -/
theorem execStart_cases {n : Word} {s t : State} (h : execStart n s = .next t) :
    startAllowed s = true ∧ configAccepted s.cfg = true ∧ t = startEffect n s := by
  unfold execStart at h
  split at h
  · split at h
    · injection h with h; exact ⟨‹_›, ‹_›, h.symm⟩
    · cases h
  · cases h

/-- What the configuration check asks (R6, R233). -/
theorem configAccepted_iff (c : Config) :
    configAccepted c = true ↔
      c.maxLitCount ≠ 0 ∧ c.minBlockSize < 65536 ∧ 1 ≤ c.tokDepth ∧ 1 ≤ c.litDepth ∧ 1 ≤ c.descDepth ∧
        1 ≤ c.outDepth ∧ 1 ≤ c.sizeDepth := by
  simp only [configAccepted, Bool.and_eq_true, decide_eq_true_eq, and_assoc]
  exact Iff.rfl

/-- All that a change of MAX_LIT_COUNT can do (R223, R233). -/
theorem setMaxLitCount_cases {m : Word} {s t : State} (h : setMaxLitCount m s = .next t) :
    startAllowed s = true ∧ m ≠ 0 ∧ t = s.withCfg { s.cfg with maxLitCount := m } := by
  unfold setMaxLitCount at h
  split at h
  · split at h
    · cases h
    · injection h with h; exact ⟨‹_›, ‹_›, h.symm⟩
  · cases h

/-- All that the flush step can be (R126 to R128). -/
theorem flushEffect_cases (s : State) :
    (s.div.litCount = 0 ∧ flushEffect s = flushNone s) ∨
    (s.div.litCount ≠ 0 ∧ s.div.litCount = s.cfg.maxLitCount ∧ flushEffect s = flushOvf s) ∨
    (s.div.litCount ≠ 0 ∧ s.div.litCount ≠ s.cfg.maxLitCount ∧ flushEffect s = flushTrail s) := by
  unfold flushEffect trailingAtCeiling
  by_cases h0 : s.div.litCount = 0 <;> by_cases hm : s.div.litCount = s.cfg.maxLitCount <;> simp [h0, hm]
  · simp_all
  · simp_all

/-! ### Reset and lanes -/

@[simp] theorem resetLane_div (s : State) : (resetLane s).div = Divider.reset := rfl
@[simp] theorem resetLane_ovfFlag (s : State) : (resetLane s).ovfFlag = false := rfl
@[simp] theorem resetLane_enc (s : State) : (resetLane s).enc = Encoder.reset := rfl
@[simp] theorem resetLane_mem (s : State) : (resetLane s).mem = Memory.reset := rfl
@[simp] theorem resetLane_cfg (s : State) : (resetLane s).cfg = s.cfg := rfl

@[simp] theorem length_otherLanes (reset : Bool) (lanes : List State) :
    (otherLanes reset lanes).length = lanes.length := by
  unfold otherLanes; split <;> simp

/-- All that a step of lane `k` can do (R21, R273). -/
theorem stepLane_cases {k : Nat} {lanes lanes' : List State} (h : stepLane k lanes = .next lanes') :
    (lanes[k]? = none ∧ lanes' = lanes) ∨
    ∃ s t, lanes[k]? = some s ∧ step s = .next t ∧ lanes' = (otherLanes (givesReset s) lanes).set k t := by
  unfold stepLane at h
  split at h
  · injection h with h; exact .inl ⟨‹_›, h.symm⟩
  · rename_i s hs
    split at h
    · rename_i t ht; injection h with h; exact .inr ⟨s, t, hs, ht, h.symm⟩
    · cases h
    · cases h

/-! ### Which turn a step takes -/

/-- With an agenda, the turn is the named agent's (R69). -/
theorem chosenTurn_of_agenda {s : State} {a : Agent} {rest : List Agent} (h : s.agenda = a :: rest) :
    chosenTurn s = some (a, s.withAgenda rest) := by
  simp [chosenTurn, h]

/-- With an agenda, the step is the named agent's turn (R69). -/
theorem step_of_agenda {s : State} {a : Agent} {rest : List Agent} (h : s.agenda = a :: rest) :
    nextTurn s = act a (s.withAgenda rest) := by
  simp [nextTurn, chosenTurn_of_agenda h]

/-- A step is the chosen agent's turn. -/
theorem nextTurn_of_chosen {s u : State} {a : Agent} (h : chosenTurn s = some (a, u)) : nextTurn s = act a u := by
  simp [nextTurn, h]

/-- All that choosing a turn does to the state: it moves the schedule on. -/
theorem chosenTurn_cases (s : State) :
    chosenTurn s = none ∨ ∃ a agenda tick, chosenTurn s = some (a, (s.withAgenda agenda).withTick tick) := by
  unfold chosenTurn
  split
  · unfold freeTurn
    split
    · exact .inl rfl
    · exact .inr ⟨_, s.agenda, s.tick, rfl⟩
    · exact .inr ⟨_, s.agenda, s.tick + 1, rfl⟩
  · rename_i a rest _; exact .inr ⟨a, rest, s.tick, rfl⟩

/-- All a step can be: nobody's turn, or one agent's turn on the same lane and host, at another place of the schedule. -/
theorem nextTurn_cases (s : State) :
    nextTurn s = .next s ∨ ∃ a agenda tick, nextTurn s = act a ((s.withAgenda agenda).withTick tick) := by
  obtain h | ⟨a, agenda, tick, h⟩ := chosenTurn_cases s
  · exact .inl (by simp [nextTurn, h])
  · exact .inr ⟨a, agenda, tick, nextTurn_of_chosen h⟩

end Sys2Proof.Machine
end

