-- ==== Sys2Proof/Laws/PerInstr.lean ====
section
/-! SUPPORT. Per instruction: its word has the bits that its row of spec/opcode_table.json fixes. -/

namespace Sys2Proof.Laws.TableRow

/-- The row's `mask`, widened to 64 bits (the table's START row has none). -/
def mask : Instr → BitVec 64
  | .lit _ _ => 0x0000FF00
  | .badLen1 _ _ => 0x0000FF00
  | .badLen23 _ _ _ => 0x0000FE00
  | .matchZeroOff _ _ => 0xFFFF0000
  | .matchTok _ _ _ => 0
  | .matchOvf _ _ _ => 0
  | .endDesc => 0xFFFFFFFFFFFFFFFF
  | .litOnly _ => 0x00000000FFFFFFFF
  | .ovfSent _ => 0x00000000FFFFFFFF
  | .matchSeq _ _ _ => 0
  | .start _ => 0

/-- The row's `match`, widened to 64 bits. -/
def pattern : Instr → BitVec 64
  | .lit _ _ => 0
  | .badLen1 _ _ => 0x00000100
  | .badLen23 _ _ _ => 0x00000200
  | .matchZeroOff _ _ => 0
  | .matchTok _ _ _ => 0
  | .matchOvf _ _ _ => 0
  | .endDesc => 0
  | .litOnly _ => 0
  | .ovfSent _ => 0x0000000003090309
  | .matchSeq _ _ _ => 0
  | .start _ => 0

/-- The word's bits, whatever carries it. -/
def bits : InputWord → BitVec 64
  | .token w => w.setWidth 64
  | .desc d => d
  | .command n => n.setWidth 64

/-- With the table's sentinel 777, the instruction's word matches its row. -/
def Statement (i : Instr) : Prop :=
  ∀ c : Config, c.ovfSentinel = 777 → bits (encode c i) &&& mask i = pattern i

/-- Two words agree under a mask if they agree on each of its bits. -/
theorem and_mask_eq {x m p : BitVec 64} (h : ∀ k < 64, (x.getLsbD k && m.getLsbD k) = p.getLsbD k) : x &&& m = p := by
  apply BitVec.eq_of_getLsbD_eq
  intro k hk
  rw [BitVec.getLsbD_and, h k hk]

theorem lit (ch : Byte) (off : Half) : Statement (.lit ch off) := by
  intro c _
  refine and_mask_eq fun k hk => ?_
  simp only [bits, encode, mask, pattern, BitVec.getLsbD_setWidth, getLsbD_tokenWord]
  interval_cases k <;> simp

theorem badLen1 (ch : Byte) (off : Half) : Statement (.badLen1 ch off) := by
  intro c _
  refine and_mask_eq fun k hk => ?_
  simp only [bits, encode, mask, pattern, BitVec.getLsbD_setWidth, getLsbD_tokenWord]
  interval_cases k <;> simp

theorem badLen23 (x : BitVec 1) (ch : Byte) (off : Half) : Statement (.badLen23 x ch off) := by
  intro c _
  refine and_mask_eq fun k hk => ?_
  simp only [bits, encode, mask, pattern, BitVec.getLsbD_setWidth, getLsbD_tokenWord, BitVec.getLsbD_append]
  interval_cases k <;> simp

theorem matchZeroOff (ch raw : Byte) : Statement (.matchZeroOff ch raw) := by
  intro c _
  refine and_mask_eq fun k hk => ?_
  simp only [bits, encode, mask, pattern, BitVec.getLsbD_setWidth, getLsbD_tokenWord]
  interval_cases k <;> simp

theorem matchTok (ch raw : Byte) (off : Half) : Statement (.matchTok ch raw off) := fun _ _ => BitVec.and_zero

theorem matchOvf (ch raw : Byte) (off : Half) : Statement (.matchOvf ch raw off) := fun _ _ => BitVec.and_zero

theorem endDesc : Statement .endDesc := fun _ _ => BitVec.zero_and

theorem litOnly (L : Word) : Statement (.litOnly L) := by
  intro c _
  refine and_mask_eq fun k hk => ?_
  simp only [bits, encode, mask, pattern, getLsbD_pack]
  interval_cases k <;> simp

theorem ovfSent (L : Word) : Statement (.ovfSent L) := by
  intro c hc
  refine and_mask_eq fun k hk => ?_
  simp only [bits, encode, mask, pattern, getLsbD_pack, hc]
  interval_cases k <;> simp

theorem matchSeq (L : Word) (ML OFF : Half) : Statement (.matchSeq L ML OFF) := fun _ _ => BitVec.and_zero

theorem start (n : Word) : Statement (.start n) := fun _ _ => BitVec.and_zero

end Sys2Proof.Laws.TableRow
end

