-- ==== Sys2Proof/Laws/Units.lean ====
section
/-! SUPPORT. Everything one turn of DIV and one turn of ENC can do, each case named and with its enabling condition. -/

namespace Sys2Proof.Machine

/-- The cases of DIV's turn from `s` (40_divider.md R121 to R129). -/
inductive DivStep (s : State) : State → Prop
  | stuck : DivStep s s
  | lit (ch : Byte) (off : Half) (st : s.div.st = .readToken) (head : s.mem.tok.head? = some (tokenWord ch 0 off))
      (room : s.mem.lit.length < s.cfg.litDepth) : DivStep s (litEffect ch s)
  | fault (w : Word) (f : ModelFault) (st : s.div.st = .readToken) (head : s.mem.tok.head? = some w) :
      DivStep s (tokenFault f s)
  | matched (ch raw : Byte) (off : Half) (st : s.div.st = .readToken)
      (head : s.mem.tok.head? = some (tokenWord ch raw off)) (long : minMatch ≤ raw.toNat) (near : off ≠ 0)
      (fits : s.div.pos.toNat + raw.toNat ≤ s.div.n.toNat) (below : s.div.litCount.toNat < s.cfg.maxLitCount.toNat)
      (room : s.mem.desc.length < s.cfg.descDepth) : DivStep s (matchEffect raw off s)
  | dropped (ch raw : Byte) (off : Half) (st : s.div.st = .readToken)
      (head : s.mem.tok.head? = some (tokenWord ch raw off)) (long : minMatch ≤ raw.toNat) (near : off ≠ 0)
      (fits : s.div.pos.toNat + raw.toNat ≤ s.div.n.toNat) (reached : s.cfg.maxLitCount.toNat ≤ s.div.litCount.toNat) :
      DivStep s (matchOvfEffect raw s)
  | flush (st : s.div.st = .flush) (ready : s.div.litCount = 0 ∨ s.mem.desc.length < s.cfg.descDepth) :
      DivStep s (flushEffect s)
  | emitEnd (st : s.div.st = .emitEnd) (room : s.mem.desc.length < s.cfg.descDepth) : DivStep s (emitEndEffect s)

/-- The cases of ENC's turn from `s` (41_encoder.md R161 to R172). -/
inductive EncStep (s : State) : State → Prop
  | stuck : EncStep s s
  | finish (st : s.enc.st = .readDescriptor) (head : s.mem.desc.head? = some 0) : EncStep s (endEffect s)
  | discard (st : s.enc.st = .emptyDiscard) (head : s.mem.desc.head? = some 0) : EncStep s (discardEffect s)
  | latch (L : Word) (ML OFF : Half) (st : s.enc.st = .readDescriptor)
      (head : s.mem.desc.head? = some (pack L ML OFF)) (nonzero : pack L ML OFF ≠ 0) : EncStep s (latchEffect L ML OFF s)
  | notSentinel (d : DWord) (st : s.enc.st = .emptyDiscard) (head : s.mem.desc.head? = some d) (nonzero : d ≠ 0) :
      EncStep s (notSentinelEffect d s)
  | emptySize (st : s.enc.st = .emptySize) (room : s.mem.size.length < s.cfg.sizeDepth) : EncStep s (emptySizeEffect s)
  | emptyTerm (st : s.enc.st = .emptyTerm) (room : s.mem.out.length < s.cfg.outDepth) : EncStep s (emptyTermEffect s)
  | tokenByte (st : s.enc.st = .emitTokenByte) (room : s.mem.out.length < s.cfg.outDepth) : EncStep s (tokenByteEffect s)
  | litLenExt (st : s.enc.st = .emitLitLenExt) (room : s.mem.out.length < s.cfg.outDepth) : EncStep s (litLenExtEffect s)
  | literalByte (st : s.enc.st = .emitLiteralBytes) (room : s.mem.out.length < s.cfg.outDepth) :
      EncStep s (literalByteEffect s)
  | offsetLow (st : s.enc.st = .emitOffsetLow) (room : s.mem.out.length < s.cfg.outDepth) : EncStep s (offsetLowEffect s)
  | offsetHigh (st : s.enc.st = .emitOffsetHigh) (room : s.mem.out.length < s.cfg.outDepth) : EncStep s (offsetHighEffect s)
  | matchLenExt (st : s.enc.st = .emitMatchLenExt) (room : s.mem.out.length < s.cfg.outDepth) :
      EncStep s (matchLenExtEffect s)
  | writeSize (st : s.enc.st = .writeSize) (room : s.mem.size.length < s.cfg.sizeDepth) : EncStep s (writeSizeEffect s)

/-- A guarded step fires or is stuck. -/
theorem fire_cases {ready : Bool} {after before t : State} (h : fire ready after before = .next t) :
    (ready = true ∧ t = after) ∨ t = before := by
  rw [fire_next_iff] at h
  cases ready <;> simp_all

/-- A reserved length at the head of TOK faults, or the unit is not at it (R124). -/
theorem DivStep.of_badLength {w : Word} {s t : State} (h : badLength w s = .next t) : DivStep s t := by
  obtain ⟨hr, rfl⟩ | rfl := fire_cases h
  · obtain ⟨st, head⟩ := (tokenAtHead_iff _ _).1 hr
    exact .fault w _ st head
  · exact .stuck

/-- What a token instruction's meaning can do, for the instructions the decoder gives (R121 to R124). -/
theorem DivStep.of_exec {i : Instr} {s t : State} (hi : i.isToken = true) (wf : i.wf s.cfg = true)
    (h : exec i s = .next t) : DivStep s t := by
  cases i with
  | lit ch off =>
    obtain ⟨hr, rfl⟩ | rfl := fire_cases h
    · simp only [Bool.and_eq_true, tokenAtHead_iff, State.litRoom_iff] at hr
      exact .lit ch off hr.1.1 hr.1.2 hr.2
    · exact .stuck
  | badLen1 ch off => exact .of_badLength h
  | badLen23 x ch off => exact .of_badLength h
  | matchZeroOff ch raw =>
    obtain ⟨hr, rfl⟩ | rfl := fire_cases h
    · obtain ⟨st, head⟩ := (tokenAtHead_iff _ _).1 hr
      exact .fault _ _ st head
    · exact .stuck
  | matchTok ch raw off =>
    simp only [Instr.wf, rawLenOk, offsetOk, Bool.and_eq_true, decide_eq_true_eq] at wf
    simp only [exec, execMatchTok] at h
    split at h
    · obtain ⟨hr, rfl⟩ | rfl := fire_cases h
      · obtain ⟨st, head⟩ := (tokenAtHead_iff _ _).1 hr
        exact .fault _ _ st head
      · exact .stuck
    · rename_i ho
      obtain ⟨hr, rfl⟩ | rfl := fire_cases h
      · simp only [Bool.and_eq_true, tokenAtHead_iff, State.descRoom_iff, Bool.not_eq_true', ← Bool.not_eq_true,
          atCeiling_iff] at hr
        rw [overshoots_iff] at ho
        exact .matched ch raw off hr.1.1.1 hr.1.1.2 wf.1 wf.2 (by omega) (by omega) hr.2
      · exact .stuck
  | matchOvf ch raw off =>
    simp only [Instr.wf, rawLenOk, offsetOk, Bool.and_eq_true, decide_eq_true_eq] at wf
    simp only [exec, execMatchOvf] at h
    split at h
    · obtain ⟨hr, rfl⟩ | rfl := fire_cases h
      · obtain ⟨st, head⟩ := (tokenAtHead_iff _ _).1 hr
        exact .fault _ _ st head
      · exact .stuck
    · rename_i ho
      obtain ⟨hr, rfl⟩ | rfl := fire_cases h
      · simp only [Bool.and_eq_true, tokenAtHead_iff, atCeiling_iff] at hr
        rw [overshoots_iff] at ho
        exact .dropped ch raw off hr.1.1 hr.1.2 wf.1 wf.2 (by omega) hr.2
      · exact .stuck
  | endDesc => cases hi
  | litOnly L => cases hi
  | ovfSent L => cases hi
  | matchSeq L ML OFF => cases hi
  | start n => cases hi

/-- A length that is neither a literal's nor reserved is a match's (R82, R83). -/
theorem rawLenOk_of_ne {raw : Byte} (h0 : raw ≠ 0) (h1 : raw ≠ 1) (h2 : raw ≠ 2) (h3 : raw ≠ 3) : rawLenOk raw = true := by
  have key : ∀ r : Byte, r ≠ 0 → r ≠ 1 → r ≠ 2 → r ≠ 3 → minMatch ≤ r.toNat := by
    intro r a b c d
    have := r.isLt
    simp only [minMatch]
    by_contra hlt
    have : r.toNat = 0 ∨ r.toNat = 1 ∨ r.toNat = 2 ∨ r.toNat = 3 := by omega
    rcases this with e | e | e | e
    · exact a (BitVec.eq_of_toNat_eq e)
    · exact b (BitVec.eq_of_toNat_eq e)
    · exact c (BitVec.eq_of_toNat_eq e)
    · exact d (BitVec.eq_of_toNat_eq e)
  simpa [rawLenOk] using key raw h0 h1 h2 h3

/-- The cases of the token decoder (R95). -/
theorem decodeToken_cases (ceiling : Bool) (w : Word) :
    (rawLen w = 0 ∧ decodeToken ceiling w = .lit (litChar w) (tokOffset w)) ∨
    (rawLen w = 1 ∧ decodeToken ceiling w = .badLen1 (litChar w) (tokOffset w)) ∨
    ((rawLen w = 2 ∨ rawLen w = 3) ∧
      decodeToken ceiling w = .badLen23 ((rawLen w).extractLsb' 0 1) (litChar w) (tokOffset w)) ∨
    (rawLenOk (rawLen w) = true ∧ tokOffset w = 0 ∧ decodeToken ceiling w = .matchZeroOff (litChar w) (rawLen w)) ∨
    (rawLenOk (rawLen w) = true ∧ tokOffset w ≠ 0 ∧
      decodeToken ceiling w =
        if ceiling then .matchOvf (litChar w) (rawLen w) (tokOffset w)
        else .matchTok (litChar w) (rawLen w) (tokOffset w)) := by
  unfold decodeToken
  by_cases h0 : rawLen w = 0
  · exact .inl ⟨h0, if_pos h0⟩
  by_cases h1 : rawLen w = 1
  · exact .inr (.inl ⟨h1, by rw [if_neg h0, if_pos h1]⟩)
  by_cases h23 : rawLen w = 2 ∨ rawLen w = 3
  · exact .inr (.inr (.inl ⟨h23, by rw [if_neg h0, if_neg h1, if_pos h23]⟩))
  have ok := rawLenOk_of_ne h0 h1 (fun h => h23 (.inl h)) (fun h => h23 (.inr h))
  by_cases ho : tokOffset w = 0
  · exact .inr (.inr (.inr (.inl ⟨ok, ho, by rw [if_neg h0, if_neg h1, if_neg h23, if_pos ho]⟩)))
  · exact .inr (.inr (.inr (.inr ⟨ok, ho, by rw [if_neg h0, if_neg h1, if_neg h23, if_neg ho]⟩)))

/-- The cases of the descriptor decoder (R86). -/
theorem decodeDesc_cases (sentinel : Half) (d : DWord) :
    (d = 0 ∧ decodeDesc sentinel d = .endDesc) ∨
    (d ≠ 0 ∧ descML d = 0 ∧ descOFF d = 0 ∧ decodeDesc sentinel d = .litOnly (descL d)) ∨
    (d ≠ 0 ∧ ¬ (descML d = 0 ∧ descOFF d = 0) ∧ descML d = sentinel ∧ descOFF d = sentinel ∧
      decodeDesc sentinel d = .ovfSent (descL d)) ∨
    (d ≠ 0 ∧ matchSeqOk sentinel (descML d) (descOFF d) = true ∧
      decodeDesc sentinel d = .matchSeq (descL d) (descML d) (descOFF d)) := by
  unfold decodeDesc
  by_cases h0 : d = 0
  · exact .inl ⟨h0, if_pos h0⟩
  by_cases hl : descML d = 0 ∧ descOFF d = 0
  · exact .inr (.inl ⟨h0, hl.1, hl.2, by rw [if_neg h0, if_pos hl]⟩)
  by_cases hs : descML d = sentinel ∧ descOFF d = sentinel
  · exact .inr (.inr (.inl ⟨h0, hl, hs.1, hs.2, by rw [if_neg h0, if_neg hl, if_pos hs]⟩))
  · exact .inr (.inr (.inr ⟨h0, by simp only [matchSeqOk, Bool.and_eq_true, decide_eq_true_eq]; exact ⟨hl, hs⟩,
      by rw [if_neg h0, if_neg hl, if_neg hs]⟩))

/-- A fetched token is one DIV's token meanings are for. -/
theorem decodeToken_isToken (ceiling : Bool) (w : Word) : (decodeToken ceiling w).isToken = true := by
  obtain ⟨_, h⟩ | ⟨_, h⟩ | ⟨_, h⟩ | ⟨_, _, h⟩ | ⟨_, _, h⟩ := decodeToken_cases ceiling w
  case inr.inr.inr.inr => rw [h]; cases ceiling <;> rfl
  all_goals rw [h]; rfl

theorem decodeToken_rules_wf (c : Config) (ceiling : Bool) (w : Word) : (decodeToken ceiling w).wf c = true := by
  obtain ⟨_, h⟩ | ⟨_, h⟩ | ⟨_, h⟩ | ⟨hr, _, h⟩ | ⟨hr, ho, h⟩ := decodeToken_cases ceiling w <;> rw [h]
  · rfl
  · rfl
  · rfl
  · exact hr
  · have ho' : offsetOk (tokOffset w) = true := by simpa [offsetOk] using ho
    cases ceiling <;> simp [Instr.wf, hr, ho']

/-- All that one turn of DIV can do. -/
theorem DivStep.of_turn {s t : State} (h : divTurn s = .next t) : DivStep s t := by
  unfold divTurn at h
  split at h
  · injection h with h; subst h; exact .stuck
  · unfold nextToken at h
    cases hd : s.mem.tok.head? with
    | none => rw [hd] at h; injection h with h; subst h; exact .stuck
    | some w =>
      rw [hd] at h
      exact .of_exec (decodeToken_isToken _ w) (decodeToken_rules_wf _ _ w) h
  · rename_i st
    obtain ⟨hr, rfl⟩ | rfl := fire_cases h
    · exact .flush st (by simpa [flushReady] using hr)
    · exact .stuck
  · rename_i st
    obtain ⟨hr, rfl⟩ | rfl := fire_cases h
    · exact .emitEnd st (by simpa using hr)
    · exact .stuck
  · injection h with h; subst h; exact .stuck
  · injection h with h; subst h; exact .stuck

/-- All that taking a non-zero descriptor can do. -/
theorem EncStep.of_takeDescriptor {L : Word} {ML OFF : Half} {s t : State} (nz : pack L ML OFF ≠ 0)
    (h : takeDescriptor L ML OFF s = .next t) : EncStep s t := by
  obtain ⟨st, hd, rfl⟩ | ⟨st, hd, rfl⟩ | rfl := takeDescriptor_cases h
  · exact .latch L ML OFF st hd nz
  · exact .notSentinel _ st hd nz
  · exact .stuck

/-- All that END can do. -/
theorem EncStep.of_execEndDesc {s t : State} (h : execEndDesc s = .next t) : EncStep s t := by
  unfold execEndDesc at h
  split at h
  · rename_i st
    obtain ⟨hr, rfl⟩ | rfl := fire_cases h
    · exact .finish st ((descAtHead_iff _ _).1 hr)
    · exact .stuck
  · rename_i st
    obtain ⟨hr, rfl⟩ | rfl := fire_cases h
    · exact .discard st ((descAtHead_iff _ _).1 hr)
    · exact .stuck
  · injection h with h; subst h; exact .stuck

/-- All that a fetched descriptor can do. -/
theorem EncStep.of_fetched {d : DWord} {s t : State} (h : exec (decodeDesc s.cfg.ovfSentinel d) s = .next t) :
    EncStep s t := by
  obtain ⟨_, e⟩ | ⟨nz, hm, ho, e⟩ | ⟨nz, _, hm, ho, e⟩ | ⟨nz, _, e⟩ := decodeDesc_cases s.cfg.ovfSentinel d <;> rw [e] at h
  · exact .of_execEndDesc h
  · refine .of_takeDescriptor ?_ h
    have : pack (descL d) (descML d) (descOFF d) ≠ 0 := by simpa using nz
    rwa [hm, ho] at this
  · refine .of_takeDescriptor ?_ h
    have : pack (descL d) (descML d) (descOFF d) ≠ 0 := by simpa using nz
    rwa [hm, ho] at this
  · exact .of_takeDescriptor (by simpa using nz) h

/-- All that one turn of ENC can do. -/
theorem EncStep.of_turn {s t : State} (h : encTurn s = .next t) : EncStep s t := by
  unfold encTurn at h
  split at h
  case h_4 | h_5 =>
    unfold nextDesc at h
    cases hd : s.mem.desc.head? with
    | none => rw [hd] at h; injection h with h; subst h; exact .stuck
    | some d => rw [hd] at h; exact .of_fetched h
  case h_1 | h_13 | h_14 => injection h with h; subst h; exact .stuck
  all_goals
    rename_i st
    obtain ⟨hr, rfl⟩ | rfl := fire_cases h
    · first
        | exact .emptySize st (by simpa using hr)
        | exact .emptyTerm st (by simpa using hr)
        | exact .tokenByte st (by simpa using hr)
        | exact .litLenExt st (by simpa using hr)
        | exact .literalByte st (by simpa using hr)
        | exact .offsetLow st (by simpa using hr)
        | exact .offsetHigh st (by simpa using hr)
        | exact .matchLenExt st (by simpa using hr)
        | exact .writeSize st (by simpa using hr)
    · exact .stuck

end Sys2Proof.Machine
end

