-- ==== Sys2Proof/Tests/Slice0.lean ====
section
/-! SUPPORT. Tests on small states, each expected value taken from spec/ (95_test_vectors.md or the rule's own example), and
for each statement of the obligations that has hypotheses a concrete state and operands that meet them all. -/

namespace Sys2Proof.Tests

open Sys2Proof.Machine Sys2Proof.Safety

/-! ### Helpers -/

/-- The outcome is a next state with this property. -/
def after (o : Host.Outcome State Fault Refusal) (p : State → Bool) : Bool :=
  match o with
  | .next t => p t
  | .fault _ => false
  | .refused _ => false

/-- The outcome is a refusal with this reason. -/
def refusedWith (o : Host.Outcome State Fault Refusal) (r : Refusal) : Bool :=
  match o with
  | .next _ => false
  | .fault _ => false
  | .refused r' => decide (r' = r)

/-- A lane at reset with ceiling `max`. -/
def lane (max : Word) : State := State.resetWith { Config.initial with maxLitCount := max }

/-- DIV in state `st` with `n`, `pos`, `litCount`, and these tokens on TOK; ENC reads descriptors. -/
def divAt (st : DivState) (max n pos litCount : Word) (toks : List Word) : State :=
  { lane max with
    div := { Divider.reset with st := st, n := n, pos := pos, litCount := litCount }
    enc := { Encoder.reset with st := .readDescriptor }
    mem := { Memory.reset with tok := toks } }

/-- ENC in state `st` with the registers `e` otherwise, and these words on DESC and bytes on LIT. -/
def encAt (st : EncState) (e : Encoder) (descs : List DWord) (lits : List Byte) : State :=
  { lane 4096 with
    enc := { e with st := st }
    mem := { Memory.reset with desc := descs, lit := lits } }

/-- ENC's registers for a current descriptor. -/
def holding (L : Word) (ML OFF : Half) (rem litLeft : Word) : Encoder :=
  { Encoder.reset with L := L, ML := ML, OFF := OFF, rem := rem, litLeft := litLeft }

/-- Both units done. -/
def bothDone : State :=
  { lane 4096 with div := { Divider.reset with st := .done }, enc := { Encoder.reset with st := .done } }

/-- Program P5's tokens (95_test_vectors.md section 10). -/
def p5 : List Word := [0x00000061, 0x00010400, 0x00050700]

/-! ### Well-formedness refuses (R82, R86) -/

theorem test_wf_short_match : Instr.wf Config.initial (.matchTok 0 3 1) = false := by decide
theorem test_wf_zero_offset : Instr.wf Config.initial (.matchTok 0 4 0) = false := by decide
theorem test_wf_short_dropped_match : Instr.wf Config.initial (.matchOvf 0 0 1) = false := by decide
theorem test_wf_dropped_zero_offset : Instr.wf Config.initial (.matchOvf 0 4 0) = false := by decide
theorem test_wf_zero_off_row_short : Instr.wf Config.initial (.matchZeroOff 0 3) = false := by decide
theorem test_wf_litOnly_empty : Instr.wf Config.initial (.litOnly 0) = false := by decide
theorem test_wf_ovfSent_zero_sentinel :
    Instr.wf { Config.initial with ovfSentinel := 0 } (.ovfSent 1) = false := by decide
theorem test_wf_matchSeq_no_match : Instr.wf Config.initial (.matchSeq 1 0 0) = false := by decide
theorem test_wf_matchSeq_sentinel : Instr.wf Config.initial (.matchSeq 1 777 777) = false := by decide
theorem test_wf_accepts : Instr.wf Config.initial (.matchSeq 0 0 5) = true := by decide

/-! ### Decoding: one word per row, written out bit by bit from R80, R85 and the table's encoding column -/

/-- V-T-2: OFFSET 0xABCD, RAW_LEN 0, LIT_CHAR 0x41. -/
theorem test_decode_lit :
    decodeToken false 0b10101011110011010000000001000001#32 = .lit 0x41 0xABCD := by decide
/-- V-T-4. -/
theorem test_decode_badLen1 :
    decodeToken false 0b00000000000000000000000100000000#32 = .badLen1 0 0 := by decide
/-- V-T-5: OFFSET 5, RAW_LEN 3. -/
theorem test_decode_badLen23 :
    decodeToken false 0b00000000000001010000001100000000#32 = .badLen23 1 0 5 := by decide
/-- V-T-10: RAW_LEN 2 and OFFSET 0, the length is tested first. -/
theorem test_decode_badLen23_first :
    decodeToken false 0b00000000000000000000001000000000#32 = .badLen23 0 0 0 := by decide
/-- V-T-6. -/
theorem test_decode_matchZeroOff :
    decodeToken false 0b00000000000000000000010000000000#32 = .matchZeroOff 0 4 := by decide
/-- V-T-8: OFFSET 3, RAW_LEN 9, LIT_CHAR 0xFF. -/
theorem test_decode_matchTok :
    decodeToken false 0b00000000000000110000100111111111#32 = .matchTok 0xFF 9 3 := by decide
/-- The same word at the ceiling (R123). -/
theorem test_decode_matchOvf :
    decodeToken true 0b00000000000000110000100111111111#32 = .matchOvf 0xFF 9 3 := by decide
/-- V-X-1. -/
theorem test_decode_endDesc : decodeDesc 777 0x0000000000000000#64 = .endDesc := by decide
/-- V-X-10. -/
theorem test_decode_litOnly : decodeDesc 777 0x0001000000000000#64 = .litOnly 65536 := by decide
/-- V-X-6. -/
theorem test_decode_ovfSent : decodeDesc 777 0x0000000403090309#64 = .ovfSent 4 := by decide
/-- V-X-9: L 20, OFF 1, ML 251. -/
theorem test_decode_matchSeq : decodeDesc 777 0x00000014000100FB#64 = .matchSeq 20 251 1 := by decide
/-- V-X-4: not END, because OFF is not 0. -/
theorem test_decode_not_end : decodeDesc 777 0x0000000000050000#64 = .matchSeq 0 0 5 := by decide
/-- R63: no channel has 16-bit elements. -/
theorem test_decode_other_width : decodeTableWord 16 0 = none := by decide
/-- R223: START is decoded from the host's command operand. -/
theorem test_decode_start : decode Config.initial false (.command 16) = .start 16 := by decide

/-! ### Steps of DIV -/

/-- V-D-4. -/
theorem test_lit :
    after (exec (.lit 0x63 0) (divAt .readToken 4096 16 2 2 [0x00000063])) (fun t =>
      decide (t.mem.lit = [0x63] ∧ t.mem.tok = [] ∧ t.div.pos = 3 ∧ t.div.litCount = 3 ∧ t.div.st = .readToken)) = true := by
  decide
/-- V-D-5. -/
theorem test_lit_ends_walk :
    after (exec (.lit 0x77 0) (divAt .readToken 4096 16 15 3 [0x00000077])) (fun t =>
      decide (t.mem.lit = [0x77] ∧ t.div.pos = 16 ∧ t.div.litCount = 4 ∧ t.div.st = .flush)) = true := by decide
/-- V-DF-1. -/
theorem test_badLen1 :
    after (exec (.badLen1 0 0) (divAt .readToken 4096 16 0 0 [0x00000100])) (fun t =>
      decide (t.mem.tok = [] ∧ t.div.st = .fault ∧ t.div.fault = some (.badMatchLength 0x00000100 0))) = true := by decide
/-- V-DF-2. -/
theorem test_badLen23 :
    after (exec (.badLen23 0 0 0) (divAt .readToken 4096 16 0 0 [0x00000200])) (fun t =>
      decide (t.mem.tok = [] ∧ t.div.fault = some (.badMatchLength 0x00000200 0))) = true := by decide
/-- V-DF-4: ZeroOffset before Overshoot. -/
theorem test_matchZeroOff :
    after (exec (.matchZeroOff 0 4) (divAt .readToken 4096 16 14 0 [0x00000400])) (fun t =>
      decide (t.div.st = .fault ∧ t.div.fault = some (.zeroOffset 0x00000400 14))) = true := by decide
/-- V-D-6. -/
theorem test_matchTok :
    after (exec (.matchTok 0 9 3) (divAt .readToken 4096 16 3 3 [0x00030900])) (fun t =>
      decide (t.mem.desc = [0x0000000300030005] ∧ t.div.pos = 12 ∧ t.div.litCount = 0 ∧ t.div.st = .readToken)) = true := by
  decide
/-- V-DF-5. -/
theorem test_matchTok_overshoots :
    after (exec (.matchTok 0 4 1) (divAt .readToken 4096 16 14 0 [0x00010400])) (fun t =>
      decide (t.mem.tok = [] ∧ t.div.fault = some (.overshoot 0x00010400 14 16))) = true := by decide
/-- V-D-10: the ceiling test is `>=`. -/
theorem test_matchOvf :
    after (exec (.matchOvf 0 4 1) (divAt .readToken 4 12 4 4 [0x00010400])) (fun t =>
      decide (t.div.ovf = true ∧ t.div.pos = 8 ∧ t.div.litCount = 4 ∧ t.mem.desc = [])) = true := by decide
/-- V-DF-6: Overshoot before the ceiling. -/
theorem test_matchOvf_overshoots :
    after (exec (.matchOvf 0 4 1) (divAt .readToken 4 8 5 5 [0x00010400])) (fun t =>
      decide (t.div.ovf = false ∧ t.div.fault = some (.overshoot 0x00010400 5 8))) = true := by decide
/-- V-D-16: a longer trailing run does not set the flag. -/
theorem test_flush_long_run :
    after (divTurn (divAt .flush 4096 5000 5000 5000 [])) (fun t =>
      decide (t.mem.desc = [0x0000138800000000] ∧ t.div.ovf = false ∧ t.div.st = .emitEnd)) = true := by decide
/-- V-D-15. -/
theorem test_flush_at_ceiling :
    after (divTurn (divAt .flush 4 4 4 4 [])) (fun t =>
      decide (t.mem.desc = [0x0000000403090309] ∧ t.div.ovf = true)) = true := by decide

/-! ### Steps of ENC -/

/-- V-ENC-3. -/
theorem test_endDesc :
    after (exec .endDesc (encAt .readDescriptor { holding 4 0 0 0 0 with size := 11 } [0] [])) (fun t =>
      decide (t.enc.st = .writeSize ∧ t.enc.L = 4 ∧ t.mem.desc = [])) = true := by decide
/-- V-ENC-20. -/
theorem test_endDesc_empty_block :
    after (exec .endDesc (encAt .emptyDiscard Encoder.reset [0] [])) (fun t =>
      decide (t.enc.st = .done ∧ t.mem.desc = [])) = true := by decide
/-- V-X-2, R164. -/
theorem test_litOnly :
    after (exec (.litOnly 1) (encAt .readDescriptor Encoder.reset [0x0000000100000000] [0x41])) (fun t =>
      decide (t.enc.st = .emitTokenByte ∧ t.enc.L = 1 ∧ t.enc.ML = 0 ∧ t.enc.OFF = 0 ∧ t.mem.lit = [0x41])) = true := by
  decide
/-- V-ENC-21. -/
theorem test_litOnly_not_sentinel :
    after (exec (.litOnly 1) (encAt .emptyDiscard Encoder.reset [0x0000000100000000] [])) (fun t =>
      decide (t.enc.st = .fault ∧ t.enc.fault = some (.emptyNotSentinel 0x0000000100000000) ∧ t.mem.desc = [])) = true := by
  decide
/-- V-X-6, R176. -/
theorem test_ovfSent :
    after (exec (.ovfSent 4) (encAt .readDescriptor Encoder.reset [0x0000000403090309] [])) (fun t =>
      decide (t.enc.st = .emitTokenByte ∧ t.enc.L = 4 ∧ t.enc.ML = 777 ∧ t.enc.OFF = 777)) = true := by decide
/-- V-ENC-2. -/
theorem test_matchSeq :
    after (exec (.matchSeq 3 5 3) (encAt .readDescriptor Encoder.reset [0x0000000300030005] [])) (fun t =>
      decide (t.enc.L = 3 ∧ t.enc.ML = 5 ∧ t.enc.OFF = 3 ∧ t.enc.st = .emitTokenByte)) = true := by decide
/-- V-ENC-5. -/
theorem test_tokenByte_saturates :
    after (encTurn (encAt .emitTokenByte (holding 20 251 1 0 0) [] [])) (fun t =>
      decide (t.mem.out = [0xFF] ∧ t.enc.rem = 5 ∧ t.enc.st = .emitLitLenExt ∧ t.enc.size = 1)) = true := by decide
/-- V-ENC-8. -/
theorem test_ext_at_255 :
    after (encTurn (encAt .emitLitLenExt (holding 270 0 0 255 0) [] [])) (fun t =>
      decide (t.mem.out = [0xFF] ∧ t.enc.rem = 0 ∧ t.enc.st = .emitLitLenExt)) = true := by decide
/-- V-ENC-9. -/
theorem test_last_literal :
    after (encTurn (encAt .emitLiteralBytes (holding 4 0 0 0 1) [] [0x77])) (fun t =>
      decide (t.mem.out = [0x77] ∧ t.enc.litLeft = 0 ∧ t.enc.st = .readDescriptor)) = true := by decide
/-- V-ENC-13. -/
theorem test_offsetHigh :
    after (encTurn (encAt .emitOffsetHigh (holding 0 777 0x0309 0 0) [] [])) (fun t =>
      decide (t.mem.out = [0x03] ∧ t.enc.rem = 762 ∧ t.enc.st = .emitMatchLenExt)) = true := by decide
/-- V-ENC-22. -/
theorem test_size_overflow :
    after (encTurn (encAt .emitOffsetLow { holding 0 5 3 0 0 with size := 0xFFFFFFFF } [] [])) (fun t =>
      decide (t.enc.st = .fault ∧ t.enc.fault = some (.sizeOverflow .emitOffsetLow) ∧ t.mem.out = [])) = true := by decide

/-! ### START, the record format, the scheduler -/

/-- V-D-1 and V-ENC-1. -/
theorem test_start :
    after (exec (.start 16) State.reset) (fun t =>
      decide (t.div.n = 16 ∧ t.div.st = .readToken ∧ t.enc.n = 16 ∧ t.enc.st = .readDescriptor)) = true := by decide
/-- V-DF-7. -/
theorem test_start_too_long :
    after (exec (.start 65537) State.reset) (fun t => decide (t.div.fault = some (.blockTooLong 65537))) = true := by decide
/-- V-H-2: the SIZE element is not taken yet. -/
theorem test_start_refused :
    refusedWith (runCommand (.start 16) { bothDone with mem := { Memory.reset with size := [11] } }) .startNotAllowed = true := by
  decide
/-- V-E-1: EE, 14 literals, 34 12. -/
theorem test_record :
    record 14 14 0x1234 (List.replicate 14 0) = [0xEE] ++ List.replicate 14 0 ++ [0x34, 0x12] := by decide
/-- Section 1, S1: ext(525) = FF FF 00. -/
theorem test_ext : ext 525 = [0xFF, 0xFF, 0x00] := by decide
/-- V-H-9: 196680 bytes, the last block is small and its entry is 72. -/
theorem test_small_block :
    dispatched Config.initial 196680 = [0, 1, 2] ∧ (perBlockSize Config.initial 196680 [])[3]? = some 72 := by decide
/-- S7: program P1's output is read back as its 16 bytes. -/
theorem test_round_trip :
    decodeBlock endsLiteralOnly [0x35, 0x61, 0x62, 0x63, 0x03, 0x00, 0x40, 0x78, 0x79, 0x7A, 0x77] =
      some [0x61, 0x62, 0x63, 0x61, 0x62, 0x63, 0x61, 0x62, 0x63, 0x61, 0x62, 0x63, 0x78, 0x79, 0x7A, 0x77] := by decide
/-- Program P5 ends with a match: a decoder that wants a literal-only last sequence rejects it, one without that limit reads 12
times the letter a (95_test_vectors.md S7, 93_implementation_defined.md U8). -/
theorem test_round_trip_limits :
    let output := encodeDescs (divideBlock Config.initial p5).descs (divideBlock Config.initial p5).lits
    decodeBlock endsLiteralOnly output = none ∧ decodeBlock (fun _ => true) output = some (List.replicate 12 0x61) := by decide
/-- V-H-4, V-H-5: malformed configurations are refused at construction. -/
theorem test_construct :
    refusedWith (construct { Config.initial with maxLitCount := 0 }) .configMalformed = true ∧
    refusedWith (construct { Config.initial with minBlockSize := 65536 }) .configMalformed = true := by decide
/-- R233, R292: no block starts under one. -/
theorem test_start_malformed :
    refusedWith (exec (.start 16) (State.resetWith { Config.initial with minBlockSize := 65536 })) .configMalformed = true := by
  decide
/-- The word the host places is the next one run: program P1's fourth token right after reset. -/
theorem test_withFetchWord :
    after (step (State.reset.withFetchWord 32 0x00030900)) (fun t =>
      decide (t.mem.desc = [0x0000000000030005] ∧ t.mem.tok = [] ∧ t.div.pos = 9)) = true := by decide

/-! ### Witnesses: the hypotheses of each statement are met -/

theorem witness_decodeInvertsEncode_match :
    Instr.wf Config.initial (.matchTok 0 4 1) = true ∧
    (∀ ch raw off, Instr.matchTok 0 4 1 = .matchTok ch raw off → false = false) ∧
    (∀ ch raw off, Instr.matchTok 0 4 1 = .matchOvf ch raw off → false = true) :=
  ⟨by decide, fun _ _ _ _ => rfl, fun _ _ _ h => nomatch h⟩

theorem witness_decodeInvertsEncode_dropped :
    Instr.wf Config.initial (.matchOvf 0 255 65535) = true ∧
    (∀ ch raw off, Instr.matchOvf 0 255 65535 = .matchTok ch raw off → true = false) ∧
    (∀ ch raw off, Instr.matchOvf 0 255 65535 = .matchOvf ch raw off → true = true) :=
  ⟨by decide, (fun _ _ _ h => nomatch h), fun _ _ _ _ => rfl⟩

/-- The six clauses, each at a boundary of its range. -/
theorem witness_tokenClassesByNumber :
    (0xFFFF00FF : Word).toNat / 256 % 256 = 0 ∧ (0x00000100 : Word).toNat / 256 % 256 = 1 ∧
    (0x00000200 : Word).toNat / 256 % 256 = 2 ∧ (0x00000300 : Word).toNat / 256 % 256 = 3 ∧
    (4 ≤ (0x00000400 : Word).toNat / 256 % 256 ∧ (0x00000400 : Word).toNat / 65536 = 0) ∧
    (4 ≤ (0x00010400 : Word).toNat / 256 % 256 ∧ 1 ≤ (0x00010400 : Word).toNat / 65536) := by decide

theorem witness_lengthEscapeLaw : 14 < 15 ∧ 15 ≤ 15 ∧ 0 < (270 - 15) / 255 := by decide

theorem witness_readerRecoversRecord :
    (([0x41] : List Byte).length = (1 : Word).toNat ∧ ((0 : Half) = 0 ∧ (0 : Half) = 0 → ([] : List Byte) = [])) ∧
    (([] : List Byte).length = (0 : Word).toNat ∧ ((3 : Half) = 0 ∧ (0 : Half) = 0 → ([1] : List Byte) = [])) := by decide

theorem witness_literalTokenStep :
    let s := divAt .readToken 4096 16 15 3 [tokenWord 0x77 0 0]
    s.div.st = .readToken ∧ s.mem.tok = tokenWord 0x77 0 0 :: [] ∧ s.mem.lit.length < s.cfg.litDepth := by decide

/-- The stuck clause: LIT is full. -/
theorem witness_literalTokenStep_full :
    let s := { divAt .readToken 4096 16 2 2 [tokenWord 0x63 0 0] with
      cfg := { Config.initial with litDepth := 2 }, mem := { Memory.reset with tok := [tokenWord 0x63 0 0], lit := [1, 2] } }
    s.div.st = .readToken ∧ s.mem.tok = tokenWord 0x63 0 0 :: [] ∧ s.cfg.litDepth ≤ s.mem.lit.length := by decide

theorem witness_literalTokenStep_walk : DividerWalk (divAt .readToken 4096 16 15 3 [tokenWord 0x77 0 0]) := by
  unfold DividerWalk; decide

theorem witness_matchTokenStep :
    let s := divAt .readToken 4 7 3 3 [tokenWord 0 4 1]
    s.div.st = .readToken ∧ s.mem.tok = tokenWord 0 4 1 :: [] ∧ 4 ≤ (4 : Byte).toNat ∧ 1 ≤ (1 : Half).toNat ∧
    s.div.pos.toNat + (4 : Byte).toNat ≤ s.div.n.toNat ∧ s.div.litCount.toNat < s.cfg.maxLitCount.toNat ∧
    s.mem.desc.length < s.cfg.descDepth := by decide

/-- The stuck clause: DESC is full. -/
theorem witness_matchTokenStep_full :
    let s := { divAt .readToken 4 7 3 3 [tokenWord 0 4 1] with
      cfg := { Config.initial with descDepth := 1 }, mem := { Memory.reset with tok := [tokenWord 0 4 1], desc := [1] } }
    s.div.st = .readToken ∧ s.mem.tok = tokenWord 0 4 1 :: [] ∧ s.div.pos.toNat + (4 : Byte).toNat ≤ s.div.n.toNat ∧
    s.div.litCount.toNat < s.cfg.maxLitCount.toNat ∧ s.cfg.descDepth ≤ s.mem.desc.length := by decide

theorem witness_matchAtCeilingStep :
    let s := divAt .readToken 4 8 4 4 [tokenWord 0 4 1]
    s.div.st = .readToken ∧ s.mem.tok = tokenWord 0 4 1 :: [] ∧ 4 ≤ (4 : Byte).toNat ∧ 1 ≤ (1 : Half).toNat ∧
    s.div.pos.toNat + (4 : Byte).toNat ≤ s.div.n.toNat ∧ s.cfg.maxLitCount.toNat ≤ s.div.litCount.toNat := by decide

/-- The four clauses. -/
theorem witness_reservedTokensFault :
    (divAt .readToken 4096 16 0 0 [tokenWord 0 1 0]).mem.tok = tokenWord 0 1 0 :: [] ∧
    (divAt .readToken 4096 16 0 0 [tokenWord 0 2 0]).mem.tok = tokenWord 0 2 0 :: [] ∧
    (divAt .readToken 4096 16 0 0 [tokenWord 0 3 5]).mem.tok = tokenWord 0 3 5 :: [] ∧
    (divAt .readToken 4096 16 0 0 [tokenWord 0 4 0]).mem.tok = tokenWord 0 4 0 :: [] ∧ 4 ≤ (4 : Byte).toNat ∧
    (divAt .readToken 4096 16 0 0 [tokenWord 0 4 0]).div.st = .readToken := by decide

/-- The three faults, and a token that passes every check. -/
theorem witness_tokenFaultOrder :
    (1 ≤ (0x00000300 : Word).toNat / 256 % 256 ∧ (0x00000300 : Word).toNat / 256 % 256 ≤ 3) ∧
    (4 ≤ (0x00000400 : Word).toNat / 256 % 256 ∧ (0x00000400 : Word).toNat / 65536 = 0) ∧
    (let s := divAt .readToken 4096 16 13 0 [0x00010400]
     s.div.st = .readToken ∧ s.mem.tok = 0x00010400 :: [] ∧ 4 ≤ (0x00010400 : Word).toNat / 256 % 256 ∧
     1 ≤ (0x00010400 : Word).toNat / 65536 ∧ s.div.n.toNat < s.div.pos.toNat + (0x00010400 : Word).toNat / 256 % 256) ∧
    (let s := divAt .readToken 4096 16 12 0 [0x00010400]
     ¬ s.div.n.toNat < s.div.pos.toNat + (0x00010400 : Word).toNat / 256 % 256) := by decide

/-- The last two clauses: a turn that answers a next state, and a literal under the walk. -/
theorem witness_tokenFaultOrder_next :
    (∃ t, divTurn (divAt .readToken 4096 16 12 0 [0x00010400]) = .next t) ∧
    DividerWalk (divAt .readToken 4096 16 15 3 [0x00000063]) ∧ (0x00000063 : Word).toNat / 256 % 256 = 0 :=
  ⟨⟨_, rfl⟩, by unfold DividerWalk; decide, by decide⟩

theorem witness_overshootFaults :
    let s := divAt .readToken 4 8 5 5 [tokenWord 0 4 1]
    s.div.st = .readToken ∧ s.mem.tok = tokenWord 0 4 1 :: [] ∧ 4 ≤ (4 : Byte).toNat ∧ 1 ≤ (1 : Half).toNat ∧
    s.div.n.toNat < s.div.pos.toNat + (4 : Byte).toNat := by decide

/-- The four clauses. -/
theorem witness_trailingRunFlush :
    ((divAt .flush 4 4 4 0 []).div.st = .flush ∧ (divAt .flush 4 4 4 0 []).cfg.maxLitCount ≠ 0 ∧
      (divAt .flush 4 4 4 0 []).div.litCount = 0) ∧
    (let s := divAt .flush 4 5 5 5 []
     s.div.litCount ≠ 0 ∧ s.div.litCount ≠ s.cfg.maxLitCount ∧ s.mem.desc.length < s.cfg.descDepth) ∧
    (let s := divAt .flush 4 4 4 4 []
     s.div.litCount = s.cfg.maxLitCount ∧ s.mem.desc.length < s.cfg.descDepth) ∧
    (let s := { divAt .flush 4 4 4 4 [] with
       cfg := { Config.initial with descDepth := 1 }, mem := { Memory.reset with desc := [1] } }
     s.div.litCount ≠ 0 ∧ s.cfg.descDepth ≤ s.mem.desc.length) := by decide

theorem witness_endSentinelStep :
    let s := divAt .emitEnd 4 4 4 4 []
    let full := { s with cfg := { Config.initial with descDepth := 1 }, mem := { Memory.reset with desc := [1] } }
    s.div.st = .emitEnd ∧ s.mem.desc.length < s.cfg.descDepth ∧
    full.div.st = .emitEnd ∧ full.cfg.descDepth ≤ full.mem.desc.length := by decide

theorem witness_readDescriptorStep :
    let s := encAt .readDescriptor Encoder.reset [0x0000000000050000] []
    let waiting := encAt .readDescriptor Encoder.reset [] []
    s.enc.st = .readDescriptor ∧ s.mem.desc = 0x0000000000050000 :: [] ∧
    waiting.enc.st = .readDescriptor ∧ waiting.mem.desc = [] := by decide

theorem witness_emptyDiscardStep :
    let s := encAt .emptyDiscard Encoder.reset [1] []
    let waiting := encAt .emptyDiscard Encoder.reset [] []
    s.enc.st = .emptyDiscard ∧ s.mem.desc = 1 :: [] ∧ waiting.enc.st = .emptyDiscard ∧ waiting.mem.desc = [] := by decide

/-- END and the three other rows, in both states that read a word. -/
theorem witness_descriptorInstructionSteps :
    (encAt .readDescriptor Encoder.reset [0] []).mem.desc = 0 :: [] ∧
    (encAt .emptyDiscard Encoder.reset [0] []).mem.desc = 0 :: [] ∧
    (Instr.litOnly 1).wf (lane 4096).cfg = true ∧
    (encAt .readDescriptor Encoder.reset [pack 1 0 0] []).mem.desc = pack 1 0 0 :: [] ∧
    (Instr.ovfSent 4).wf (lane 4096).cfg = true ∧
    (encAt .readDescriptor Encoder.reset [pack 4 777 777] []).mem.desc = pack 4 777 777 :: [] ∧
    (lane 4096).cfg.ovfSentinel = 777 ∧
    (Instr.matchSeq 0 0 5).wf (lane 4096).cfg = true ∧
    (encAt .emptyDiscard Encoder.reset [pack 0 0 5] []).mem.desc = pack 0 0 5 :: [] ∧
    (encAt .readDescriptor Encoder.reset [] []).enc.st = .readDescriptor ∧
    (encAt .emptyDiscard Encoder.reset [] []).enc.st = .emptyDiscard := by decide

/-- A state with no room on OUT and SIZE. -/
def noRoom (s : State) : State :=
  { s with cfg := { s.cfg with outDepth := 1, sizeDepth := 1 }, mem := { s.mem with out := [0], size := [0] } }

/-- The four clauses: room and no room, for SIZE and for OUT. -/
theorem witness_emptyBlockOutputSteps :
    let s := encAt .emptySize Encoder.reset [] []
    let u := encAt .emptyTerm Encoder.reset [] []
    s.enc.st = .emptySize ∧ s.mem.size.length < s.cfg.sizeDepth ∧ (noRoom s).cfg.sizeDepth ≤ (noRoom s).mem.size.length ∧
    u.enc.st = .emptyTerm ∧ u.mem.out.length < u.cfg.outDepth ∧ (noRoom u).cfg.outDepth ≤ (noRoom u).mem.out.length := by
  decide

/-- For each emitting state: room on OUT and a size below the limit, and no room. -/
theorem witness_emitSteps :
    ∀ st ∈ [EncState.emitTokenByte, .emitLitLenExt, .emitLiteralBytes, .emitOffsetLow, .emitOffsetHigh, .emitMatchLenExt],
      let s := encAt st (holding 15 15 1 255 15) [] [0x41]
      s.enc.st = st ∧ s.mem.out.length < s.cfg.outDepth ∧ s.enc.size.toNat < 2 ^ 32 - 1 ∧ s.mem.lit = 0x41 :: [] ∧
      (noRoom s).enc.st = st ∧ (noRoom s).cfg.outDepth ≤ (noRoom s).mem.out.length := by decide

/-- LiteralByteStep's clause on an empty LIT. -/
theorem witness_literalByteStep_empty :
    let s := encAt .emitLiteralBytes (holding 15 15 1 0 15) [] []
    s.enc.st = .emitLiteralBytes ∧ s.mem.lit = [] := by decide

theorem witness_writeSizeStep :
    let s := encAt .writeSize { Encoder.reset with size := 11 } [] []
    s.enc.st = .writeSize ∧ s.mem.size.length < s.cfg.sizeDepth ∧
    (noRoom s).enc.st = .writeSize ∧ (noRoom s).cfg.sizeDepth ≤ (noRoom s).mem.size.length := by decide

/-- For each emitting state, at the last size. -/
theorem witness_sizeOverflowFaults :
    ∀ st ∈ [EncState.emitTokenByte, .emitLitLenExt, .emitLiteralBytes, .emitOffsetLow, .emitOffsetHigh, .emitMatchLenExt],
      let s := encAt st { holding 15 15 1 255 15 with size := 0xFFFFFFFF } [] [0x41]
      s.enc.size.toNat = 2 ^ 32 - 1 ∧ s.mem.out.length < s.cfg.outDepth ∧ s.enc.st = st ∧ s.mem.lit ≠ [] := by decide

/-- START is allowed at reset and after a block whose outputs are taken; not while a unit works. -/
theorem witness_startBeginsBlock :
    ((State.reset.div.st = .idle ∨ State.reset.div.st = .done) ∧ (State.reset.enc.st = .idle ∨ State.reset.enc.st = .done) ∧
      State.reset.mem.size = [] ∧ State.reset.env.flagRead = true ∧ configAccepted State.reset.cfg = true) ∧
    ((bothDone.div.st = .idle ∨ bothDone.div.st = .done) ∧ (bothDone.enc.st = .idle ∨ bothDone.enc.st = .done) ∧
      bothDone.mem.size = [] ∧ bothDone.env.flagRead = true ∧ configAccepted bothDone.cfg = true) ∧
    ¬ ((divAt .flush 4 4 4 4 []).div.st = .idle ∨ (divAt .flush 4 4 4 4 []).div.st = .done) ∧
    ¬ ((divAt .flush 4 4 4 4 []).enc.st = .idle ∨ (divAt .flush 4 4 4 4 []).enc.st = .done) := by decide

/-- StartProtocol: allowed as above, with a new value that is not 0; not allowed with SIZE not taken or the flag not read. -/
theorem witness_startProtocol :
    (State.reset.mem.size = [] ∧ State.reset.env.flagRead = true ∧ (5 : Word) ≠ 0) ∧
    (State.reset.cfg.maxLitCount ≠ 0 ∧ State.reset.cfg.minBlockSize < 65536 ∧ 1 ≤ State.reset.cfg.tokDepth ∧
      1 ≤ State.reset.cfg.litDepth ∧ 1 ≤ State.reset.cfg.descDepth ∧ 1 ≤ State.reset.cfg.outDepth ∧
      1 ≤ State.reset.cfg.sizeDepth) ∧
    ¬ (lane 0).cfg.maxLitCount ≠ 0 ∧ ¬ (State.resetWith { Config.initial with minBlockSize := 65536 }).cfg.minBlockSize < 65536 ∧
    ¬ ({ bothDone with mem := { Memory.reset with size := [11] } } : State).mem.size = [] ∧
    ¬ ({ bothDone with env := { Environment.quiet with flagRead := false } } : State).env.flagRead = true := by decide

theorem witness_hostChannelTurns :
    let s := { lane 4 with
      env := { Environment.quiet with toks := [7] }, mem := { Memory.reset with out := [1, 2], size := [3] } }
    let full := { s with cfg := { s.cfg with tokDepth := 1 }, mem := { s.mem with tok := [9] } }
    s.env.toks = 7 :: [] ∧ s.mem.tok.length < s.cfg.tokDepth ∧ full.cfg.tokDepth ≤ full.mem.tok.length ∧
    s.mem.out = 1 :: [2] ∧ s.mem.size = 3 :: [] ∧ (lane 4).mem.out = [] ∧ (lane 4).mem.size = [] := by decide

theorem witness_partition : 0 < numBlocks 65537 ∧ 0 + 1 < numBlocks 65537 := by decide

theorem witness_sizeTable : 0 < numBlocks 1 ∧ ([⟨false, 11⟩] : List BlockReport)[0]? = some ⟨false, 11⟩ := by decide

/-- A literal-only record with its literal on LIT. -/
theorem witness_recordEmission :
    let s := encAt .readDescriptor Encoder.reset [pack 1 0 0, 0] [0x41, 0x42]
    s.enc.st = .readDescriptor ∧ s.mem.desc = pack 1 0 0 :: [0] ∧ ¬ ((1 : Word) = 0 ∧ (0 : Half) = 0 ∧ (0 : Half) = 0) ∧
    s.mem.lit = [0x41] ++ [0x42] ∧ ([0x41] : List Byte).length = (1 : Word).toNat ∧
    s.mem.out.length + (record 1 0 0 [0x41]).length ≤ s.cfg.outDepth ∧
    s.enc.size.toNat + (record 1 0 0 [0x41]).length < 2 ^ 32 ∧ 0 < 1 ∧ 1 < 1 + (record 1 0 0 [0x41]).length := by decide

theorem witness_blockEmission :
    let s := encAt .readDescriptor Encoder.reset ([pack 1 0 2, pack 1 0 0] ++ 0 :: []) [0x41, 0x42]
    let ds := [pack 1 0 2, pack 1 0 0]
    s.enc.st = .readDescriptor ∧ s.enc.size = 0 ∧ s.mem.desc = ds ++ 0 :: [] ∧ 0 ∉ ds ∧
    s.mem.lit = [0x41, 0x42] ++ [] ∧ ([0x41, 0x42] : List Byte).length = runsIn ds ∧
    s.mem.out.length + (encodeDescs ds [0x41, 0x42]).length ≤ s.cfg.outDepth ∧
    (encodeDescs ds [0x41, 0x42]).length < 2 ^ 32 ∧ s.mem.size.length < s.cfg.sizeDepth := by decide

theorem witness_dividerRunsTheAlgorithm :
    let s := divAt .readToken 4096 12 0 0 (p5 ++ [0x71])
    s.div.st = .readToken ∧ s.div.pos = 0 ∧ s.div.litCount = 0 ∧ s.div.ovf = false ∧ p5 ≠ [] ∧
    p5.all legalToken = true ∧ coverage p5 = s.div.n.toNat ∧ s.div.n.toNat ≤ 65536 ∧ s.mem.tok = p5 ++ [0x71] ∧
    s.mem.lit.length + (divideBlock s.cfg p5).lits.length ≤ s.cfg.litDepth ∧
    s.mem.desc.length + (divideBlock s.cfg p5).descs.length ≤ s.cfg.descDepth := by decide

theorem witness_overflowFlagLaw : (lane 4).cfg.maxLitCount ≠ 0 := by decide

theorem witness_streamConsistency : coverage p5 ≤ 65536 := by decide

theorem witness_descriptorStreamShape : p5.all legalToken = true ∧ coverage p5 ≤ 65536 := by decide

theorem witness_roundTrip :
    (List.replicate 12 (0x61 : Byte)).length ≤ 65536 ∧ tokenContract (List.replicate 12 0x61) p5 = true ∧
    (divideBlock Config.initial p5).ovf = false ∧
    (let records := blockRecords (divideBlock Config.initial p5).descs (divideBlock Config.initial p5).lits
     (fun _ => true) records = true ∧ endsLiteralOnly records = false) := by decide

theorem witness_emptyBlockRun :
    startAllowed State.reset = true ∧ configAccepted State.reset.cfg = true ∧ State.reset.mem.desc = [] ∧
    State.reset.mem.out.length < State.reset.cfg.outDepth := by decide

/-- ResetValues: there is a lane. -/
theorem witness_resetValues : State.resetWith Config.initial ∈ resetLanes Config.initial := .head _

/-- A token, a descriptor in each state that reads one, and a START. -/
theorem witness_stepRunsTheFetchedInstruction :
    (let s := { divAt .readToken 4096 16 0 0 [0x41] with agenda := [.div] }
     s.agenda = Agent.div :: [] ∧ s.div.st = .readToken ∧ s.mem.tok = 0x41 :: []) ∧
    (let s := { encAt .readDescriptor Encoder.reset [1] [] with agenda := [.enc] }
     s.agenda = Agent.enc :: [] ∧ (s.enc.st = .readDescriptor ∨ s.enc.st = .emptyDiscard) ∧ s.mem.desc = 1 :: []) ∧
    (let s := { encAt .emptyDiscard Encoder.reset [1] [] with agenda := [.enc] }
     s.agenda = Agent.enc :: [] ∧ (s.enc.st = .readDescriptor ∨ s.enc.st = .emptyDiscard) ∧ s.mem.desc = 1 :: []) ∧
    (let s := { lane 4 with agenda := [.controller], env := { Environment.quiet with cmds := [.start 16] } }
     s.agenda = Agent.controller :: [] ∧ s.env.cmds = .start 16 :: []) := by decide

theorem witness_freeTurnIsReady :
    (State.reset.agenda = [] ∧ ∀ a ∈ allAgents, agentReady State.reset a = false) ∧
    (let s := divAt .readToken 4096 16 0 0 [0x41]
     s.agenda = [] ∧ agentReady s .div = true) := by decide

/-- For every agent, not only those of the list. -/
theorem witness_freeTurnIsReady_all (a : Agent) : agentReady State.reset a = false := by cases a <;> decide

/-- A token instruction and a descriptor instruction that is no START, each with a next state. -/
theorem witness_instructionFrames :
    (∃ t, exec (.lit 0x41 0) (divAt .readToken 4096 16 0 0 [0x41]) = .next t) ∧ (Instr.lit 0x41 0).isToken = true ∧
    (∃ t, exec (.matchSeq 0 0 5) (encAt .readDescriptor Encoder.reset [pack 0 0 5] []) = .next t) ∧
    (Instr.matchSeq 0 0 5).isToken = false ∧ ∀ n, Instr.matchSeq 0 0 5 ≠ .start n :=
  ⟨⟨_, rfl⟩, rfl, ⟨_, rfl⟩, rfl, fun _ h => nomatch h⟩

theorem witness_unitsTouchOnlyTheirEnds :
    (∃ t, divTurn (divAt .readToken 4096 16 0 0 [0x41]) = .next t) ∧
    (∃ t, encTurn (encAt .emitLiteralBytes (holding 1 0 0 0 1) [] [0x41]) = .next t) := ⟨⟨_, rfl⟩, ⟨_, rfl⟩⟩

theorem witness_channelsStayBounded :
    Memory.wf (lane 4).cfg (lane 4).mem = true ∧ ∃ t, step { lane 4 with agenda := [.div] } = .next t :=
  ⟨by decide, ⟨_, rfl⟩⟩

/-- A block in progress: three literals read, two of them with ENC, a match next. -/
def midBlock : State :=
  { lane 4096 with
    div := { Divider.reset with st := .readToken, n := 16, pos := 3, litCount := 3 }
    enc := { Encoder.reset with st := .readDescriptor, n := 16 }
    mem := { Memory.reset with tok := [0x00030900], lit := [0x61, 0x62, 0x63] }
    env := { Environment.quiet with flagRead := false }
    agenda := [.div] }

theorem midBlock_inv : PipelineInv midBlock where
  noHarness := ⟨rfl, rfl⟩
  walk := by unfold DividerWalk; decide
  counts := by unfold EncoderCounts; decide
  streams := .inr (by decide)
  phases := .inr (.inr (.inl (by decide)))
  recorded := by unfold FaultsRecorded; decide
  published := by unfold FlagPublished; decide

theorem witness_pipelineInvariantKept : PipelineInv midBlock ∧ ∃ t, step midBlock = .next t :=
  ⟨midBlock_inv, ⟨_, rfl⟩⟩

theorem witness_finishedBlockLeavesNoData : PipelineInv bothDone ∧ bothDone.div.st = .done ∧ bothDone.enc.st = .done :=
  ⟨{ noHarness := ⟨rfl, rfl⟩
     walk := by unfold DividerWalk; decide
     counts := by unfold EncoderCounts; decide
     streams := .inr (by decide)
     phases := .inr (.inr (.inr (.inr (by decide))))
     recorded := by unfold FaultsRecorded; decide
     published := by unfold FlagPublished; decide }, rfl, rfl⟩

theorem witness_noDeadlockWithDeepLit :
    PipelineInv midBlock ∧ ¬ faulted midBlock ∧ ¬ (midBlock.div.st = .idle ∧ midBlock.enc.st = .idle) ∧
    ¬ (midBlock.div.st = .done ∧ midBlock.enc.st = .done) ∧ 1 ≤ midBlock.cfg.descDepth ∧ 1 ≤ midBlock.cfg.outDepth ∧
    1 ≤ midBlock.cfg.sizeDepth ∧ midBlock.div.n.toNat ≤ midBlock.cfg.litDepth ∧ midBlock.mem.out = [] ∧
    midBlock.mem.size = [] ∧ (midBlock.div.st = .readToken → midBlock.mem.tok ≠ []) :=
  ⟨midBlock_inv, by unfold faulted; decide, by decide, by decide, by decide, by decide, by decide, by decide, rfl, rfl,
    by decide⟩

/-- V-Z-1: LIT_DEPTH = 2, two bytes there, a literal next. -/
theorem witness_shallowLitDeadlock :
    let s := { divAt .readToken 4096 16 2 2 [] with
      cfg := { Config.initial with litDepth := 2 }
      mem := { Memory.reset with tok := [tokenWord 0x63 0 0], lit := [0x61, 0x62] } }
    s.div.st = .readToken ∧ s.mem.tok = tokenWord 0x63 0 0 :: [] ∧ s.cfg.litDepth ≤ s.mem.lit.length ∧
    s.enc.st = .readDescriptor ∧ s.mem.desc = [] := by decide

/-- Both units in their fault states. -/
def bothFaulted : State :=
  { lane 4 with
    div := { Divider.reset with st := .fault, fault := some (.blockTooLong 65537) }
    enc := { Encoder.reset with st := .fault, fault := some (.emptyNotSentinel 1) }
    agenda := [.div] }

theorem witness_faultIsPermanent :
    NoReset bothFaulted ∧ (∃ t, step bothFaulted = .next t) ∧ bothFaulted.div.st = .fault ∧ bothFaulted.enc.st = .fault :=
  ⟨by unfold NoReset; decide, ⟨_, rfl⟩, rfl, rfl⟩

theorem witness_overflowFlagWriters :
    let s := { divAt .readToken 4 12 4 4 [0x00010400] with agenda := [.div] }
    let u := { s with div := { s.div with ovf := true } }
    NoReset u ∧ (∃ t, step u = .next t) ∧ divInBlock u.div = true ∧ u.div.ovf = true :=
  ⟨by unfold NoReset; decide, ⟨_, rfl⟩, by decide, rfl⟩

theorem witness_configurationIsFrozen :
    (∃ t, step { lane 4 with agenda := [.controller], env := { Environment.quiet with cmds := [.setMaxLitCount 9] } } = .next t) ∧
    configAccepted (lane 4).cfg = true ∧ (lane 4).cfg.minBlockSize < 65536 ∧
    ¬ ({ Config.initial with minBlockSize := 65536 } : Config).minBlockSize < 65536 :=
  ⟨⟨_, rfl⟩, by decide, by decide, by decide⟩

/-- Both units have a step: DIV a literal, ENC a literal of an earlier record. -/
theorem witness_unitsCommute :
    let s := { divAt .readToken 4096 16 3 0 [0x61] with
      enc := { holding 3 5 3 0 2 with st := .emitLiteralBytes }
      mem := { Memory.reset with tok := [0x61], lit := [0x62, 0x63] } }
    divReady s = true ∧ encReady s = true := by decide

/-- A lane whose controller's turn is next, with a reset to give. -/
def resetting : State := { lane 5 with agenda := [.controller], env := { Environment.quiet with cmds := [.reset] } }

/-- A step that is no reset, one that is, and a lane that does not exist. -/
theorem witness_laneIsolation :
    ((∃ ls, stepLane 1 [midBlock, { lane 5 with agenda := [.div] }] = .next ls) ∧
      givesReset { lane 5 with agenda := [.div] } = false) ∧
    ((∃ ls, stepLane 1 [midBlock, resetting] = .next ls) ∧ ([midBlock, resetting] : List State)[1]? = some resetting ∧
      givesReset resetting = true) ∧
    ((∃ ls, stepLane 2 [midBlock, resetting] = .next ls) ∧ ([midBlock, resetting] : List State)[2]? = none) :=
  ⟨⟨⟨_, rfl⟩, rfl⟩, ⟨⟨_, rfl⟩, rfl, rfl⟩, ⟨_, rfl⟩, rfl⟩

/-- R273, R290: a reset given in lane 1 reaches lane 0, which was in the middle of a block. -/
theorem test_joint_reset :
    (match stepLane 1 [midBlock, resetting] with
     | .next ls => decide (ls.map (fun s => s.div.st) = [.idle, .idle] ∧ ls.map (fun s => s.mem.lit) = [[], []])
     | .fault _ => false
     | .refused _ => false) = true := by decide

/-- A block of one literal, with every turn of it on the agenda, to the taking of its outputs. -/
def oneLiteral : State :=
  { divAt .readToken 4096 1 0 0 [0x41] with
    env := { Environment.quiet with flagRead := false }
    agenda := [.div, .div, .div, .enc, .enc, .enc, .enc, .enc, .outConsumer, .outConsumer, .sizeConsumer] }

/-- The states that a machine goes through from `s`. -/
def follow (s : State) : Nat → State
  | 0 => s
  | k + 1 =>
    match step (follow s k) with
    | .next t => t
    | .fault _ => follow s k
    | .refused _ => follow s k

theorem eq_next_of_after {o : Host.Outcome State Fault Refusal} {t : State}
    (h : after o (fun u => decide (u = t)) = true) : o = .next t := by
  cases o with
  | next u => exact congrArg _ (of_decide_eq_true h)
  | fault _ => cases h
  | refused _ => cases h

theorem step_follow_end : step (follow oneLiteral 11) = .next (follow oneLiteral 11) := eq_next_of_after (by decide)

/-- After the eleven turns nothing more is enabled, so nothing changes. -/
theorem follow_rest (k : Nat) : follow oneLiteral (11 + k) = follow oneLiteral 11 := by
  induction k with
  | zero => rfl
  | succ k ih =>
    show (match step (follow oneLiteral (11 + k)) with
      | .next t => t | .fault _ => follow oneLiteral (11 + k) | .refused _ => follow oneLiteral (11 + k)) = _
    rw [ih, step_follow_end]

theorem follow_late {k : Nat} (h : 11 ≤ k) : follow oneLiteral k = follow oneLiteral 11 := by
  obtain ⟨j, rfl⟩ := Nat.exists_eq_add_of_le h
  exact follow_rest j

theorem oneLiteral_run : IsRun (follow oneLiteral) := by
  intro k
  by_cases h : k < 11
  · refine eq_next_of_after ?_
    revert k; decide
  · rw [follow_late (k := k) (by omega), follow_late (k := k + 1) (by omega)]; exact step_follow_end

theorem oneLiteral_fair : WeaklyFair (follow oneLiteral) := by
  intro a k h
  have := h (11 + k) (by omega)
  rw [follow_rest] at this
  exact absurd this (by cases a <;> decide)

theorem oneLiteral_supplied : TokensSupplied (follow oneLiteral) := by
  intro k
  by_cases h : k < 11
  · revert k; decide
  · rw [follow_late (k := k) (by omega)]; decide

theorem witness_fairBlockEnds :
    IsRun (follow oneLiteral) ∧ WeaklyFair (follow oneLiteral) ∧ TokensSupplied (follow oneLiteral) ∧
    PipelineInv (follow oneLiteral 0) ∧ NoReset (follow oneLiteral 0) ∧ configAccepted (follow oneLiteral 0).cfg = true ∧
    ¬ ((follow oneLiteral 0).div.st = .idle ∧ (follow oneLiteral 0).enc.st = .idle) ∧
    (follow oneLiteral 0).div.n.toNat ≤ (follow oneLiteral 0).cfg.litDepth ∧ (follow oneLiteral 0).env.cmds = [] :=
  ⟨oneLiteral_run, oneLiteral_fair, oneLiteral_supplied,
    { noHarness := ⟨rfl, rfl⟩
      walk := by unfold DividerWalk; decide
      counts := by unfold EncoderCounts; decide
      streams := .inr (by decide)
      phases := .inr (.inr (.inl (by decide)))
      recorded := by unfold FaultsRecorded; decide
      published := by unfold FlagPublished; decide },
    by unfold NoReset; decide, by decide, by decide, by decide, rfl⟩

end Sys2Proof.Tests
end

section
/-! PROOFS, the statements of 00_scope.md. What each instruction writes and what it leaves as it is (R9, R65), when START and a
change of MAX_LIT_COUNT are answered (R223, R233), that nothing else writes the configuration (R37), and that a step is exec of
the word its unit reads (R3). -/

namespace Sys2Proof.Machine

/-! ### What a token instruction leaves unchanged (R65, R220) -/

/-- What a guarded step after which `P` holds, fired or stuck, leaves true. -/
theorem fire_preserves {P : State → Prop} {ready : Bool} {after before t : State} (h : fire ready after before = .next t)
    (fired : P after) (stuck : P before) : P t := by
  obtain ⟨_, rfl⟩ | rfl := fire_cases h
  · exact fired
  · exact stuck

/-- From `s` to `t` only DIV's registers other than n change, TOK loses at most its head, and LIT and
DESC gain at most one element at the tail. -/
def TokenFrame (s t : State) : Prop :=
  (∃ div mem, t = { s with div := div, mem := mem }) ∧
  t.div.n = s.div.n ∧ t.mem.out = s.mem.out ∧ t.mem.size = s.mem.size ∧
  (t.mem.tok = s.mem.tok ∨ t.mem.tok = s.mem.tok.tail) ∧
  (∃ bs, t.mem.lit = s.mem.lit ++ bs ∧ bs.length ≤ 1) ∧ (∃ ds, t.mem.desc = s.mem.desc ++ ds ∧ ds.length ≤ 1)

/-- The channel gains nothing. -/
theorem exists_append_none {α : Type} (l : List α) : ∃ xs, l = l ++ xs ∧ xs.length ≤ 1 :=
  ⟨[], (List.append_nil l).symm, Nat.zero_le 1⟩

/-- The channel gains one element. -/
theorem exists_append_one {α : Type} (l : List α) (x : α) : ∃ xs, l ++ [x] = l ++ xs ∧ xs.length ≤ 1 :=
  ⟨[x], rfl, Nat.le_refl 1⟩

theorem TokenFrame.refl (s : State) : TokenFrame s s :=
  ⟨⟨s.div, s.mem, rfl⟩, rfl, rfl, rfl, .inl rfl, exists_append_none _, exists_append_none _⟩

theorem TokenFrame.of_litEffect (ch : Byte) (s : State) : TokenFrame s (litEffect ch s) :=
  ⟨⟨_, _, rfl⟩, rfl, rfl, rfl, .inr rfl, exists_append_one _ ch, exists_append_none _⟩

theorem TokenFrame.of_tokenFault (f : ModelFault) (s : State) : TokenFrame s (tokenFault f s) :=
  ⟨⟨_, _, rfl⟩, rfl, rfl, rfl, .inr rfl, exists_append_none _, exists_append_none _⟩

theorem TokenFrame.of_matchEffect (raw : Byte) (off : Half) (s : State) : TokenFrame s (matchEffect raw off s) :=
  ⟨⟨_, _, rfl⟩, rfl, rfl, rfl, .inr rfl, exists_append_none _, exists_append_one _ _⟩

theorem TokenFrame.of_matchOvfEffect (raw : Byte) (s : State) : TokenFrame s (matchOvfEffect raw s) :=
  ⟨⟨_, _, rfl⟩, rfl, rfl, rfl, .inr rfl, exists_append_none _, exists_append_none _⟩

/-- Every token instruction, well-formed or not, stays inside DIV's frame. -/
theorem TokenFrame.of_exec {i : Instr} {s t : State} (token : i.isToken = true) (h : exec i s = .next t) :
    TokenFrame s t := by
  cases i with
  | lit ch off => exact fire_preserves h (.of_litEffect ch s) (.refl s)
  | badLen1 ch off => exact fire_preserves h (.of_tokenFault _ s) (.refl s)
  | badLen23 x ch off => exact fire_preserves h (.of_tokenFault _ s) (.refl s)
  | matchZeroOff ch raw => exact fire_preserves h (.of_tokenFault _ s) (.refl s)
  | matchTok ch raw off =>
    simp only [exec, execMatchTok] at h
    split at h
    · exact fire_preserves h (.of_tokenFault _ s) (.refl s)
    · exact fire_preserves h (.of_matchEffect raw off s) (.refl s)
  | matchOvf ch raw off =>
    simp only [exec, execMatchOvf] at h
    split at h
    · exact fire_preserves h (.of_tokenFault _ s) (.refl s)
    · exact fire_preserves h (.of_matchOvfEffect raw s) (.refl s)
  | endDesc | litOnly | ovfSent | matchSeq | start => cases token

/-! ### What a descriptor instruction leaves unchanged (R65, R220) -/

/-- From `s` to `t` DESC loses at most its head and only ENC's st, L, ML, OFF and fault are written. -/
def DescriptorFrame (s t : State) : Prop :=
  ∃ desc st L ML OFF fault, (desc = s.mem.desc ∨ desc = s.mem.desc.tail) ∧
    t = { s with
      mem := { s.mem with desc := desc }
      enc := { s.enc with st := st, L := L, ML := ML, OFF := OFF, fault := fault } }

theorem DescriptorFrame.refl (s : State) : DescriptorFrame s s :=
  ⟨s.mem.desc, s.enc.st, s.enc.L, s.enc.ML, s.enc.OFF, s.enc.fault, .inl rfl, rfl⟩

/-- Taking a word off DESC, whatever is then written to the five registers. -/
theorem DescriptorFrame.pop (st : EncState) (L : Word) (ML OFF : Half) (fault : Option ModelFault) (s : State) :
    DescriptorFrame s
      ((s.withMem s.mem.popDesc).withEnc { s.enc with st := st, L := L, ML := ML, OFF := OFF, fault := fault }) :=
  ⟨s.mem.desc.tail, st, L, ML, OFF, fault, .inr rfl, rfl⟩

theorem DescriptorFrame.of_execEndDesc {s t : State} (h : execEndDesc s = .next t) : DescriptorFrame s t := by
  unfold execEndDesc at h
  split at h
  · exact fire_preserves h (.pop .writeSize _ _ _ _ s) (.refl s)
  · exact fire_preserves h (.pop .done _ _ _ _ s) (.refl s)
  · cases h; exact .refl s

theorem DescriptorFrame.of_takeDescriptor {L : Word} {ML OFF : Half} {s t : State}
    (h : takeDescriptor L ML OFF s = .next t) : DescriptorFrame s t := by
  obtain ⟨_, _, rfl⟩ | ⟨_, _, rfl⟩ | rfl := takeDescriptor_cases h
  · exact .pop .emitTokenByte L ML OFF _ s
  · exact .pop .fault _ _ _ (some (.emptyNotSentinel (pack L ML OFF))) s
  · exact .refl t

/-- Every descriptor instruction, well-formed or not, stays inside its frame. -/
theorem DescriptorFrame.of_exec {i : Instr} {s t : State} (descriptor : i.isToken = false) (noStart : ∀ n, i ≠ .start n)
    (h : exec i s = .next t) : DescriptorFrame s t := by
  cases i with
  | lit | badLen1 | badLen23 | matchZeroOff | matchTok | matchOvf => cases descriptor
  | endDesc => exact .of_execEndDesc h
  | litOnly L => exact .of_takeDescriptor h
  | ovfSent L => exact .of_takeDescriptor h
  | matchSeq L ML OFF => exact .of_takeDescriptor h
  | start n => exact absurd rfl (noStart n)

/-- Settles O46: each instruction's guarded effect stays inside its unit's frame. -/
theorem instructionFrames : Obligations.InstructionFrames := fun _ _ _ h =>
  ⟨fun token => TokenFrame.of_exec token h, fun descriptor noStart => DescriptorFrame.of_exec descriptor noStart h⟩

/-! ### START and the change of MAX_LIT_COUNT (R223, R233) -/

section commands
variable {s : State} (n m : Word)

theorem exec_start_of_allowed (allowed : startAllowed s = true) (accepted : configAccepted s.cfg = true) :
    exec (.start n) s = .next (startEffect n s) := by
  simp [exec, execStart, allowed, accepted]

theorem exec_start_of_malformed (allowed : startAllowed s = true) (malformed : ¬ configAccepted s.cfg = true) :
    exec (.start n) s = .refused .configMalformed := by
  simp [exec, execStart, allowed, malformed]

theorem exec_start_of_not_allowed (busy : ¬ startAllowed s = true) : exec (.start n) s = .refused .startNotAllowed := by
  simp [exec, execStart, busy]

theorem setMaxLitCount_of_allowed (allowed : startAllowed s = true) (positive : m ≠ 0) :
    setMaxLitCount m s = .next (s.withCfg { s.cfg with maxLitCount := m }) :=
  (if_pos allowed).trans (if_neg positive)

theorem setMaxLitCount_zero (allowed : startAllowed s = true) : setMaxLitCount 0 s = .refused .maxLitCountZero := by
  simp [setMaxLitCount, allowed]

theorem setMaxLitCount_of_not_allowed (busy : ¬ startAllowed s = true) :
    setMaxLitCount m s = .refused .configNotAllowed := by
  simp [setMaxLitCount, busy]

end commands

/-- Settles O29: the case of an allowed START, and the two ways a unit may be busy. -/
theorem startBeginsBlock : Obligations.StartBeginsBlock := by
  intro s n
  refine ⟨fun div enc size flag accepted => ?_, fun div => ?_, fun enc => ?_⟩
  · exact exec_start_of_allowed n ((startAllowed_iff s).2 ⟨div, enc, size, flag⟩) accepted
  · exact exec_start_of_not_allowed n fun allowed => div ((startAllowed_iff s).1 allowed).1
  · exact exec_start_of_not_allowed n fun allowed => enc ((startAllowed_iff s).1 allowed).2.1

/-- Settles O30: the two conditions are `startAllowed` and `configAccepted`. -/
theorem startProtocol : Obligations.StartProtocol := by
  intro s n m
  refine ⟨fun h => ?_, fun h => ?_⟩
  · have allowed := (startAllowed_iff s).2 h
    refine ⟨fun good => ?_, fun bad => ?_, fun positive => ?_, ?_⟩
    · exact ⟨_, exec_start_of_allowed n allowed ((configAccepted_iff s.cfg).2 good)⟩
    · exact exec_start_of_malformed n allowed fun accepted => bad ((configAccepted_iff s.cfg).1 accepted)
    · exact setMaxLitCount_of_allowed m allowed positive
    · exact setMaxLitCount_zero allowed
  · have busy : ¬ startAllowed s = true := fun allowed => h ((startAllowed_iff s).1 allowed)
    exact ⟨exec_start_of_not_allowed n busy, setMaxLitCount_of_not_allowed m busy⟩

/-! ### Who writes what: the units and the host agents (R9, R20, R37) -/

theorem flushEffect_frame (s : State) : ∃ div mem, flushEffect s = { s with div := div, mem := mem } := by
  obtain ⟨_, e⟩ | ⟨_, _, e⟩ | ⟨_, _, e⟩ := flushEffect_cases s <;> exact ⟨_, _, e⟩

theorem emit_frame (b : Byte) (m : Memory) (e : Encoder) (s : State) :
    ∃ enc mem, emit b m e s = { s with enc := enc, mem := mem } := by
  by_cases full : s.enc.size = BitVec.allOnes 32
  · exact ⟨_, _, emit_of_eq full⟩
  · exact ⟨_, _, emit_of_ne full⟩

theorem extByteEffect_frame (last : Encoder) (s : State) :
    ∃ enc mem, extByteEffect last s = { s with enc := enc, mem := mem } := by
  unfold extByteEffect
  split <;> exact emit_frame _ _ _ s

theorem literalByteEffect_frame (s : State) : ∃ enc mem, literalByteEffect s = { s with enc := enc, mem := mem } := by
  unfold literalByteEffect
  split
  · exact ⟨s.enc, s.mem, rfl⟩
  · exact emit_frame _ _ _ s

/-- A turn of DIV writes DIV's registers, the channels and OVF_FLAG. -/
theorem DivStep.frame {s t : State} (h : DivStep s t) :
    ∃ div flag mem, t = { s with div := div, ovfFlag := flag, mem := mem } := by
  cases h with
  | stuck => exact ⟨s.div, s.ovfFlag, s.mem, rfl⟩
  | lit | fault | matched | dropped | emitEnd => exact ⟨_, _, _, rfl⟩
  | flush =>
    obtain ⟨div, mem, e⟩ := flushEffect_frame s
    exact ⟨div, s.ovfFlag, mem, e⟩

/-- A turn of ENC writes ENC's registers and the channels. -/
theorem EncStep.frame {s t : State} (h : EncStep s t) : ∃ enc mem, t = { s with enc := enc, mem := mem } := by
  cases h with
  | stuck => exact ⟨s.enc, s.mem, rfl⟩
  | finish | discard | latch | notSentinel | emptySize | emptyTerm | writeSize => exact ⟨_, _, rfl⟩
  | tokenByte | offsetLow | offsetHigh => exact emit_frame _ _ _ s
  | litLenExt | matchLenExt => exact extByteEffect_frame _ s
  | literalByte => exact literalByteEffect_frame s

theorem DivStep.cfg_eq {s t : State} (h : DivStep s t) : t.cfg = s.cfg := by
  obtain ⟨_, _, _, rfl⟩ := h.frame
  rfl

theorem EncStep.cfg_eq {s t : State} (h : EncStep s t) : t.cfg = s.cfg := by
  obtain ⟨_, _, rfl⟩ := h.frame
  rfl

@[simp] theorem produceTok_cfg (s : State) : (produceTok s).cfg = s.cfg := by
  unfold produceTok
  split
  · rfl
  · split <;> rfl

@[simp] theorem consumeOut_cfg (s : State) : (consumeOut s).cfg = s.cfg := by
  unfold consumeOut
  split <;> rfl

@[simp] theorem consumeSize_cfg (s : State) : (consumeSize s).cfg = s.cfg := by
  unfold consumeSize
  split <;> rfl

@[simp] theorem driveDesc_cfg (s : State) : (driveDesc s).cfg = s.cfg := by
  unfold driveDesc
  split
  · rfl
  · split <;> rfl

@[simp] theorem driveLit_cfg (s : State) : (driveLit s).cfg = s.cfg := by
  unfold driveLit
  split
  · rfl
  · split <;> rfl

/-! ### The configuration is frozen (R37, R74, R223) -/

/-- From `s` to `t` the configuration stays, or START would be allowed in `s` and only MAX_LIT_COUNT is set, not to 0. -/
def ConfigStep (s t : State) : Prop :=
  t.cfg = s.cfg ∨ (startAllowed s = true ∧ ∃ m : Word, m ≠ 0 ∧ t.cfg = { s.cfg with maxLitCount := m })

theorem ConfigStep.accepted {s t : State} (h : ConfigStep s t) (accepted : configAccepted s.cfg = true) :
    configAccepted t.cfg = true := by
  obtain same | ⟨_, m, positive, set⟩ := h
  · rwa [same]
  · obtain ⟨_, others⟩ := (configAccepted_iff s.cfg).1 accepted
    rw [set]
    exact (configAccepted_iff _).2 ⟨positive, others⟩

theorem ConfigStep.of_runCommand {c : Command} {s t : State} (h : runCommand c s = .next t) : ConfigStep s t := by
  cases c with
  | start n =>
    obtain ⟨_, _, rfl⟩ := execStart_cases h
    exact .inl rfl
  | setMaxLitCount m =>
    obtain ⟨allowed, positive, rfl⟩ := setMaxLitCount_cases h
    exact .inr ⟨allowed, m, positive, rfl⟩
  | readFlag => cases h; exact .inl rfl
  | reset => cases h; exact .inl rfl

/-- Taking the command off the controller's list changes neither the configuration nor whether START is allowed. -/
theorem ConfigStep.of_controllerTurn {s t : State} (h : controllerTurn s = .next t) : ConfigStep s t := by
  unfold controllerTurn at h
  split at h
  · cases h; exact .inl rfl
  · rename_i cs _
    exact ConfigStep.of_runCommand (s := s.withEnv { s.env with cmds := cs }) h

theorem ConfigStep.of_act {a : Agent} {s t : State} (h : act a s = .next t) : ConfigStep s t := by
  cases a with
  | div => exact .inl (DivStep.of_turn h).cfg_eq
  | enc => exact .inl (EncStep.of_turn h).cfg_eq
  | controller => exact .of_controllerTurn h
  | tokProducer => cases h; exact .inl (produceTok_cfg s)
  | outConsumer => cases h; exact .inl (consumeOut_cfg s)
  | sizeConsumer => cases h; exact .inl (consumeSize_cfg s)
  | descDriver => cases h; exact .inl (driveDesc_cfg s)
  | litDriver => cases h; exact .inl (driveLit_cfg s)

/-- Moving the schedule on changes neither the configuration nor whether START is allowed. -/
theorem ConfigStep.of_step {s t : State} (h : step s = .next t) : ConfigStep s t := by
  obtain e | ⟨a, agenda, tick, e⟩ := nextTurn_cases s
  · cases e.symm.trans h; exact .inl rfl
  · exact ConfigStep.of_act (s := (s.withAgenda agenda).withTick tick) (e.symm.trans h)

/-- Settles O57: construction is guarded by `configAccepted`, and the controller alone writes the configuration. -/
theorem configurationIsFrozen : Obligations.ConfigurationIsFrozen := by
  refine ⟨fun c => ⟨fun good => ?_, fun bad => ?_⟩, fun s t h => ?_⟩
  · have accepted := (configAccepted_iff c).2 good
    exact ⟨if_pos accepted, if_pos accepted⟩
  · have malformed : ¬ configAccepted c = true := fun accepted => bad ((configAccepted_iff c).1 accepted)
    exact ⟨if_neg malformed, if_neg malformed⟩
  · exact ⟨ConfigStep.of_step h, (ConfigStep.of_step h).accepted⟩

/-! ### A step runs the decoded instruction (R3, R86, R95) -/

/-- A non-zero descriptor whose match fields are zero has a literal run. -/
theorem descL_ne_zero {d : DWord} (nonzero : d ≠ 0) (hML : descML d = 0) (hOFF : descOFF d = 0) : descL d ≠ 0 := by
  intro hL
  apply nonzero
  rw [← pack_fields d]
  exact pack_eq_zero.2 ⟨hL, hML, hOFF⟩

theorem decodeDesc_wf (c : Config) (d : DWord) : (decodeDesc c.ovfSentinel d).wf c = true := by
  obtain ⟨_, e⟩ | ⟨nonzero, hML, hOFF, e⟩ | ⟨_, notZero, hML, hOFF, e⟩ | ⟨_, ok, e⟩ := decodeDesc_cases c.ovfSentinel d <;>
    rw [e]
  · rfl
  · exact decide_eq_true (descL_ne_zero nonzero hML hOFF)
  · exact decide_eq_true fun zero => notZero ⟨hML.trans zero, hOFF.trans zero⟩
  · exact ok

/-- DIV, in DIV_READ_TOKEN with a token at the head of TOK, runs it. -/
theorem divTurn_readToken {s : State} {w : Word} {ws : List Word} (st : s.div.st = .readToken) (tok : s.mem.tok = w :: ws) :
    divTurn s = exec (decode s.cfg (atCeiling s) (.token w)) s := by
  simp [divTurn, st, nextToken, tok, runFetched]

/-- ENC, in a state that takes a descriptor, with one at the head of DESC, runs it. -/
theorem encTurn_takesDescriptor {s : State} {d : DWord} {ds : List DWord}
    (st : s.enc.st = .readDescriptor ∨ s.enc.st = .emptyDiscard) (desc : s.mem.desc = d :: ds) :
    encTurn s = exec (decode s.cfg (atCeiling s) (.desc d)) s := by
  obtain st | st := st <;> simp [encTurn, st, nextDesc, desc, runFetched]

/-- The controller gives the first of its commands. -/
theorem controllerTurn_cons {s : State} {c : Command} {cs : List Command} (cmds : s.env.cmds = c :: cs) :
    controllerTurn s = runCommand c (s.withEnv { s.env with cmds := cs }) := by
  simp [controllerTurn, cmds]

/-- Settles O43: the agenda's turn, then the unit's fetch. -/
theorem stepRunsTheFetchedInstruction : Obligations.StepRunsTheFetchedInstruction := by
  intro s agenda
  refine ⟨fun w ws turn st tok => ?_, fun d ds turn st desc => ?_, fun n cs turn cmds => ?_⟩
  · exact ⟨decodeToken_rules_wf s.cfg _ w,
      (step_of_agenda turn).trans (divTurn_readToken (s := s.withAgenda agenda) st tok)⟩
  · exact ⟨decodeDesc_wf s.cfg d,
      (step_of_agenda turn).trans (encTurn_takesDescriptor (s := s.withAgenda agenda) st desc)⟩
  · exact (step_of_agenda turn).trans (controllerTurn_cons (s := s.withAgenda agenda) cmds)

end Sys2Proof.Machine
end

section
/-! PROOFS, the statements of 10_state.md. Whose turn a step is where nothing fixes it (R20, R69), who writes OVF_FLAG and `div.ovf`
(R26, R27), and that lanes share nothing but a reset (R21, R273). -/

namespace Sys2Proof.Machine

open Sys2Proof.Safety

/-! ### A free turn (R20, R69) -/

theorem mem_allAgents (a : Agent) : a ∈ allAgents := by
  cases a <;> decide

theorem mem_readyAgents {s : State} {a : Agent} : a ∈ readyAgents s ↔ agentReady s a = true := by
  simp [readyAgents, mem_allAgents]

/-- All that a free turn can be: nobody's if no agent is ready, else that of a ready agent. -/
theorem freeTurn_cases (s : State) :
    (readyAgents s = [] ∧ freeTurn s = none) ∨
    ∃ a tick, agentReady s a = true ∧ freeTurn s = some (a, s.withTick tick) := by
  unfold freeTurn
  split
  case h_1 nobody => exact .inl ⟨nobody, rfl⟩
  case h_2 a only =>
    have ready : a ∈ readyAgents s := only ▸ List.mem_singleton_self a
    exact .inr ⟨a, s.tick, mem_readyAgents.1 ready, rfl⟩
  case h_3 a b rest several =>
    have inRange : Config.freeChoice s.tick % (rest.length + 2) < (a :: b :: rest).length := Nat.mod_lt _ (Nat.succ_pos _)
    refine .inr ⟨_, s.tick + 1, mem_readyAgents.1 ?_, rfl⟩
    rw [several, List.getD_eq_getElem _ _ inRange]
    exact List.getElem_mem inRange

/-- With no agenda, the turn is a free one. -/
theorem chosenTurn_of_no_agenda {s : State} (h : s.agenda = []) : chosenTurn s = freeTurn s := by
  simp [chosenTurn, h]

/-- Settles O44: by the cases of a free turn, each excluded by the other's hypothesis. -/
theorem freeTurnIsReady : Obligations.FreeTurnIsReady := by
  intro s free
  have turn := chosenTurn_of_no_agenda free
  obtain ⟨nobody, e⟩ | ⟨a, tick, ready, e⟩ := freeTurn_cases s
  · refine ⟨fun _ => by simp [step, nextTurn, turn, e], fun ⟨a, ready⟩ => ?_⟩
    exact absurd (mem_readyAgents.2 ready) (by simp [nobody])
  · refine ⟨fun idle => absurd ready (by simp [idle a]), fun _ => ?_⟩
    exact ⟨a, tick, ready, nextTurn_of_chosen (turn.trans e)⟩

/-! ### What the host's channel agents leave unchanged (R20) -/

/-- From `s` to `t` channels and the host's own fields may change, not the commands it has still to give. -/
def HostFrame (s t : State) : Prop :=
  ∃ mem env, t = { s with mem := mem, env := env } ∧ env.cmds = s.env.cmds

theorem HostFrame.refl (s : State) : HostFrame s s := ⟨s.mem, s.env, rfl, rfl⟩

theorem HostFrame.of_produceTok (s : State) : HostFrame s (produceTok s) := by
  unfold produceTok
  split
  · exact .refl s
  · split
    · exact ⟨_, _, rfl, rfl⟩
    · exact .refl s

theorem HostFrame.of_consumeOut (s : State) : HostFrame s (consumeOut s) := by
  unfold consumeOut
  split
  · exact .refl s
  · exact ⟨_, _, rfl, rfl⟩

theorem HostFrame.of_consumeSize (s : State) : HostFrame s (consumeSize s) := by
  unfold consumeSize
  split
  · exact .refl s
  · exact ⟨_, _, rfl, rfl⟩

theorem HostFrame.of_driveDesc (s : State) : HostFrame s (driveDesc s) := by
  unfold driveDesc
  split
  · exact .refl s
  · split
    · exact ⟨_, _, rfl, rfl⟩
    · exact .refl s

theorem HostFrame.of_driveLit (s : State) : HostFrame s (driveLit s) := by
  unfold driveLit
  split
  · exact .refl s
  · split
    · exact ⟨_, _, rfl, rfl⟩
    · exact .refl s

/-! ### The overflow flags (R26, R27, R129) -/

/-- From `s` to `t` OVF_FLAG stays or takes `div.ovf` as DIV ends its block, and within a block a raised `div.ovf` stays. -/
def OverflowStep (s t : State) : Prop :=
  (t.ovfFlag = s.ovfFlag ∨ (s.div.st = .emitEnd ∧ t.div.st = .done ∧ t.ovfFlag = s.div.ovf)) ∧
  (divInBlock s.div = true → s.div.ovf = true → t.div.ovf = true)

/-- A step that writes neither flag. -/
theorem OverflowStep.of_eq {s t : State} (flag : t.ovfFlag = s.ovfFlag) (ovf : t.div.ovf = s.div.ovf) : OverflowStep s t :=
  ⟨.inl flag, fun _ raised => ovf.trans raised⟩

theorem HostFrame.overflowStep {s t : State} (h : HostFrame s t) : OverflowStep s t := by
  obtain ⟨_, _, rfl, _⟩ := h
  exact .of_eq rfl rfl

theorem EncStep.overflowStep {s t : State} (h : EncStep s t) : OverflowStep s t := by
  obtain ⟨_, _, rfl⟩ := h.frame
  exact .of_eq rfl rfl

/-- The flush leaves OVF_FLAG alone, and raises `div.ovf` or keeps it (R126 to R128). -/
theorem OverflowStep.of_flushEffect (s : State) : OverflowStep s (flushEffect s) := by
  obtain ⟨_, e⟩ | ⟨_, _, e⟩ | ⟨_, _, e⟩ := flushEffect_cases s <;> rw [e]
  · exact .of_eq rfl rfl
  · exact ⟨.inl rfl, fun _ _ => rfl⟩
  · exact .of_eq rfl rfl

theorem DivStep.overflowStep {s t : State} (h : DivStep s t) : OverflowStep s t := by
  cases h with
  | stuck | lit | fault | matched => exact .of_eq rfl rfl
  | dropped => exact ⟨.inl rfl, fun _ _ => rfl⟩
  | flush => exact .of_flushEffect s
  | emitEnd st => exact ⟨.inr ⟨st, rfl, rfl⟩, fun _ raised => raised⟩

/-- Where START is allowed, DIV is outside a block (R223). -/
theorem not_divInBlock_of_startAllowed {s : State} (allowed : startAllowed s = true) : ¬ divInBlock s.div = true := by
  obtain ⟨idle | done, _⟩ := (startAllowed_iff s).1 allowed
  · simp [divInBlock, idle]
  · simp [divInBlock, done]

theorem OverflowStep.of_runCommand {c : Command} {s t : State} (notReset : c ≠ .reset) (h : runCommand c s = .next t) :
    OverflowStep s t := by
  cases c with
  | start n =>
    obtain ⟨allowed, _, rfl⟩ := execStart_cases h
    exact ⟨.inl rfl, fun inBlock => absurd inBlock (not_divInBlock_of_startAllowed allowed)⟩
  | setMaxLitCount m =>
    obtain ⟨_, _, rfl⟩ := setMaxLitCount_cases h
    exact .of_eq rfl rfl
  | readFlag => cases h; exact .of_eq rfl rfl
  | reset => exact absurd rfl notReset

/-- All that the controller's turn can do: nothing, or give the first of its commands. -/
theorem controllerTurn_cases {s t : State} (h : controllerTurn s = .next t) :
    t = s ∨ ∃ c cs, s.env.cmds = c :: cs ∧ runCommand c (s.withEnv { s.env with cmds := cs }) = .next t := by
  unfold controllerTurn at h
  split at h
  · cases h; exact .inl rfl
  · rename_i c cs cmds
    exact .inr ⟨c, cs, cmds, h⟩

theorem OverflowStep.of_controllerTurn {s t : State} (noReset : NoReset s) (h : controllerTurn s = .next t) :
    OverflowStep s t := by
  obtain rfl | ⟨c, cs, cmds, run⟩ := controllerTurn_cases h
  · exact .of_eq rfl rfl
  · have notReset : c ≠ .reset := fun e => noReset (by simp [cmds, e])
    exact OverflowStep.of_runCommand (s := s.withEnv { s.env with cmds := cs }) notReset run

theorem OverflowStep.of_act {a : Agent} {s t : State} (noReset : NoReset s) (h : act a s = .next t) : OverflowStep s t := by
  cases a with
  | div => exact (DivStep.of_turn h).overflowStep
  | enc => exact (EncStep.of_turn h).overflowStep
  | controller => exact .of_controllerTurn noReset h
  | tokProducer => cases h; exact (HostFrame.of_produceTok s).overflowStep
  | outConsumer => cases h; exact (HostFrame.of_consumeOut s).overflowStep
  | sizeConsumer => cases h; exact (HostFrame.of_consumeSize s).overflowStep
  | descDriver => cases h; exact (HostFrame.of_driveDesc s).overflowStep
  | litDriver => cases h; exact (HostFrame.of_driveLit s).overflowStep

/-- Settles O56: moving the schedule on touches neither flag, and then by the agent whose turn it is. -/
theorem overflowFlagWriters : Obligations.OverflowFlagWriters := by
  intro s t noReset h
  obtain e | ⟨a, agenda, tick, e⟩ := nextTurn_cases s
  · cases e.symm.trans h; exact OverflowStep.of_eq rfl rfl
  · exact OverflowStep.of_act (s := (s.withAgenda agenda).withTick tick) noReset (e.symm.trans h)

/-! ### Lanes (R21, R273, R290) -/

/-- A step that gives a reset resets its own lane, the host's fields and the schedule aside. -/
theorem step_of_givesReset {s : State} (h : givesReset s = true) : ∃ u, step s = .next (resetLane u) ∧ u.cfg = s.cfg := by
  obtain nobody | ⟨a, agenda, tick, turn⟩ := chosenTurn_cases s
  · simp [givesReset, nobody] at h
  · simp only [givesReset, turn, Bool.and_eq_true, decide_eq_true_eq] at h
    obtain ⟨rfl, head⟩ := h
    obtain ⟨cs, cmds⟩ := List.head?_eq_some_iff.1 head
    exact ⟨_, (nextTurn_of_chosen turn).trans (controllerTurn_cons cmds), rfl⟩

@[simp] theorem otherLanes_false (lanes : List State) : otherLanes false lanes = lanes := rfl

@[simp] theorem otherLanes_true (lanes : List State) : otherLanes true lanes = lanes.map resetLane := rfl

/-- After a reset of lane `k`, whose own step gives `t`, every lane is a reset lane with its configuration as it was. -/
theorem getElem?_set_map_resetLane {k j : Nat} {lanes : List State} {s t u : State} (lane : lanes[k]? = some s)
    (own : step s = .next t) (reset : givesReset s = true) (other : lanes[j]? = some u) :
    ∃ w, ((lanes.map resetLane).set k t)[j]? = some (resetLane w) ∧ w.cfg = u.cfg := by
  by_cases same : k = j
  · subst same
    obtain rfl : s = u := Option.some.inj (lane.symm.trans other)
    obtain ⟨w, e, cfg⟩ := step_of_givesReset reset
    obtain rfl : t = resetLane w := by simpa using own.symm.trans e
    have inRange : k < (lanes.map resetLane).length := by simpa using (List.getElem?_eq_some_iff.1 lane).1
    exact ⟨w, List.getElem?_set_self inRange, cfg⟩
  · exact ⟨u, by rw [List.getElem?_set_ne same]; simp [other], rfl⟩

/-- Settles O59: `List.set` writes lane `k` alone, on lanes that are as they were or all reset. -/
theorem laneIsolation : Obligations.LaneIsolation := by
  intro k lanes lanes' h
  obtain ⟨absent, rfl⟩ | ⟨s, t, lane, own, rfl⟩ := stepLane_cases h
  · exact ⟨rfl, fun _ => rfl, fun s lane => absurd lane (by simp [absent])⟩
  refine ⟨by simp, fun absent => absurd lane (by simp [absent]), fun s' lane' => ?_⟩
  obtain rfl : s = s' := Option.some.inj (lane.symm.trans lane')
  refine ⟨⟨t, own, List.getElem?_set_self ?_⟩, fun quiet j other => ?_, fun reset j u other => ?_⟩
  · simpa using (List.getElem?_eq_some_iff.1 lane).1
  · rw [List.getElem?_set_ne other.symm, quiet, otherLanes_false]
  · obtain ⟨w, e, cfg⟩ := getElem?_set_map_resetLane lane own reset other
    rw [reset, otherLanes_true]
    exact ⟨resetLane w, e, rfl, rfl, rfl, rfl, cfg⟩

end Sys2Proof.Machine
end

section
/-! PROOFS, the statements of 20_memory.md on the channels' capacities: every push is under its channel's room (R61). -/

namespace Sys2Proof.Machine

/-! ### Every channel within its capacity (R61) -/

theorem Memory.wf_flushEffect {s : State} (wf : Memory.wf s.cfg s.mem = true)
    (ready : s.div.litCount = 0 ∨ s.mem.desc.length < s.cfg.descDepth) : Memory.wf s.cfg (flushEffect s).mem = true := by
  obtain ⟨_, e⟩ | ⟨busy, _, e⟩ | ⟨busy, _, e⟩ := flushEffect_cases s <;> rw [e]
  · exact wf
  · exact Memory.wf_pushDesc wf _ (ready.resolve_left busy)
  · exact Memory.wf_pushDesc wf _ (ready.resolve_left busy)

theorem DivStep.wf_mem {s t : State} (h : DivStep s t) (wf : Memory.wf s.cfg s.mem = true) :
    Memory.wf s.cfg t.mem = true := by
  cases h with
  | stuck => exact wf
  | lit ch off st head room => exact Memory.wf_pushLit (Memory.wf_popTok wf) ch room
  | fault => exact Memory.wf_popTok wf
  | matched ch raw off st head long near fits below room => exact Memory.wf_pushDesc (Memory.wf_popTok wf) _ room
  | dropped => exact Memory.wf_popTok wf
  | flush st ready => exact Memory.wf_flushEffect wf ready
  | emitEnd st room => exact Memory.wf_pushDesc wf 0 room

/-- A byte is pushed on OUT, or ENC faults and the channels stay (R181). -/
theorem Memory.wf_emit {b : Byte} {m : Memory} {e : Encoder} {s : State} (wf : Memory.wf s.cfg s.mem = true)
    (wf' : Memory.wf s.cfg m = true) (room : m.out.length < s.cfg.outDepth) :
    Memory.wf s.cfg (emit b m e s).mem = true := by
  by_cases full : s.enc.size = BitVec.allOnes 32
  · rw [emit_of_eq full]; exact wf
  · rw [emit_of_ne full]; exact Memory.wf_pushOut wf' b room

theorem Memory.wf_extByteEffect {last : Encoder} {s : State} (wf : Memory.wf s.cfg s.mem = true)
    (room : s.mem.out.length < s.cfg.outDepth) : Memory.wf s.cfg (extByteEffect last s).mem = true := by
  unfold extByteEffect
  split <;> exact Memory.wf_emit wf wf room

theorem Memory.wf_literalByteEffect {s : State} (wf : Memory.wf s.cfg s.mem = true)
    (room : s.mem.out.length < s.cfg.outDepth) : Memory.wf s.cfg (literalByteEffect s).mem = true := by
  unfold literalByteEffect
  split
  · exact wf
  · exact Memory.wf_emit wf (Memory.wf_popLit wf) room

theorem EncStep.wf_mem {s t : State} (h : EncStep s t) (wf : Memory.wf s.cfg s.mem = true) :
    Memory.wf s.cfg t.mem = true := by
  cases h with
  | stuck => exact wf
  | finish | discard | latch | notSentinel => exact Memory.wf_popDesc wf
  | emptySize st room => exact Memory.wf_pushSize wf 0 room
  | emptyTerm st room => exact Memory.wf_pushOut wf _ room
  | tokenByte st room | offsetLow st room | offsetHigh st room => exact Memory.wf_emit wf wf room
  | litLenExt st room | matchLenExt st room => exact Memory.wf_extByteEffect wf room
  | literalByte st room => exact Memory.wf_literalByteEffect wf room
  | writeSize st room => exact Memory.wf_pushSize wf _ room

theorem Memory.wf_produceTok {s : State} (wf : Memory.wf s.cfg s.mem = true) :
    Memory.wf s.cfg (produceTok s).mem = true := by
  unfold produceTok
  split
  · exact wf
  · split
    · exact Memory.wf_pushTok wf _ ((State.tokRoom_iff s).1 ‹_›)
    · exact wf

theorem Memory.wf_consumeOut {s : State} (wf : Memory.wf s.cfg s.mem = true) :
    Memory.wf s.cfg (consumeOut s).mem = true := by
  unfold consumeOut
  split
  · exact wf
  · exact Memory.wf_popOut wf

theorem Memory.wf_consumeSize {s : State} (wf : Memory.wf s.cfg s.mem = true) :
    Memory.wf s.cfg (consumeSize s).mem = true := by
  unfold consumeSize
  split
  · exact wf
  · exact Memory.wf_popSize wf

theorem Memory.wf_driveDesc {s : State} (wf : Memory.wf s.cfg s.mem = true) :
    Memory.wf s.cfg (driveDesc s).mem = true := by
  unfold driveDesc
  split
  · exact wf
  · split
    · exact Memory.wf_pushDesc wf _ ((State.descRoom_iff s).1 ‹_›)
    · exact wf

theorem Memory.wf_driveLit {s : State} (wf : Memory.wf s.cfg s.mem = true) :
    Memory.wf s.cfg (driveLit s).mem = true := by
  unfold driveLit
  split
  · exact wf
  · split
    · exact Memory.wf_pushLit wf _ ((State.litRoom_iff s).1 ‹_›)
    · exact wf

/-- No command writes a channel, but a reset, which empties them all; none changes a capacity. -/
theorem Memory.wf_runCommand {c : Command} {s t : State} (wf : Memory.wf s.cfg s.mem = true)
    (h : runCommand c s = .next t) : Memory.wf t.cfg t.mem = true := by
  cases c with
  | start n =>
    obtain ⟨_, _, rfl⟩ := execStart_cases h
    exact wf
  | setMaxLitCount m =>
    obtain ⟨_, _, rfl⟩ := setMaxLitCount_cases h
    exact wf
  | readFlag => cases h; exact wf
  | reset => cases h; exact Memory.wf_reset s.cfg

theorem Memory.wf_controllerTurn {s t : State} (wf : Memory.wf s.cfg s.mem = true) (h : controllerTurn s = .next t) :
    Memory.wf t.cfg t.mem = true := by
  obtain rfl | ⟨c, cs, _, run⟩ := controllerTurn_cases h
  · exact wf
  · exact Memory.wf_runCommand (s := s.withEnv { s.env with cmds := cs }) wf run

theorem Memory.wf_act {a : Agent} {s t : State} (wf : Memory.wf s.cfg s.mem = true) (h : act a s = .next t) :
    Memory.wf t.cfg t.mem = true := by
  cases a with
  | div =>
    have turn := DivStep.of_turn h
    rw [turn.cfg_eq]
    exact turn.wf_mem wf
  | enc =>
    have turn := EncStep.of_turn h
    rw [turn.cfg_eq]
    exact turn.wf_mem wf
  | controller => exact Memory.wf_controllerTurn wf h
  | tokProducer => cases h; rw [produceTok_cfg]; exact Memory.wf_produceTok wf
  | outConsumer => cases h; rw [consumeOut_cfg]; exact Memory.wf_consumeOut wf
  | sizeConsumer => cases h; rw [consumeSize_cfg]; exact Memory.wf_consumeSize wf
  | descDriver => cases h; rw [driveDesc_cfg]; exact Memory.wf_driveDesc wf
  | litDriver => cases h; rw [driveLit_cfg]; exact Memory.wf_driveLit wf

/-- An invariant that does not read the schedule and that each agent's turn keeps is kept by every step. -/
theorem inv_of_step {P : State → Prop} (schedule : ∀ s agenda tick, P s → P ((s.withAgenda agenda).withTick tick))
    (turn : ∀ a s t, P s → act a s = .next t → P t) {s t : State} (inv : P s) (h : step s = .next t) : P t := by
  obtain e | ⟨a, agenda, tick, e⟩ := nextTurn_cases s
  · cases e.symm.trans h; exact inv
  · exact turn a _ t (schedule s agenda tick inv) (e.symm.trans h)

/-- Settles O49: every push is under its channel's room, by the agent whose turn it is. -/
theorem channelsStayBounded : Obligations.ChannelsStayBounded := fun _ _ =>
  inv_of_step (P := fun s => Memory.wf s.cfg s.mem = true) (fun _ _ _ wf => wf) fun _ _ _ => Memory.wf_act

end Sys2Proof.Machine
end

section
/-! PROOFS, the statement of 20_memory.md on the invariant of the pipeline (R71, R134, R135). The steps of DIV inside a block, of
ENC inside a block, the two ends of a block, faults and START each keep it by a lemma of their own. -/

namespace Sys2Proof.Safety

open Sys2Proof.Machine

/-! ### What the invariant of the pipeline rests on -/

/-- The invariant reads the two units, OVF_FLAG, LIT, DESC and the harness's lists, and nothing else. -/
theorem PipelineInv.congr {s t : State} (h : PipelineInv s) (div : t.div = s.div) (enc : t.enc = s.enc)
    (flag : t.ovfFlag = s.ovfFlag) (lit : t.mem.lit = s.mem.lit) (desc : t.mem.desc = s.mem.desc)
    (descs : t.env.descs = s.env.descs) (lits : t.env.lits = s.env.lits) : PipelineInv t where
  noHarness := by simpa only [NoHarness, descs, lits] using h.noHarness
  walk := by simpa only [DividerWalk, div] using h.walk
  counts := by simpa only [EncoderCounts, enc] using h.counts
  streams := by simpa only [StreamsAgree, faulted, div, enc, lit, desc] using h.streams
  phases := by simpa only [PhasesAgree, faulted, div, enc, desc] using h.phases
  recorded := by simpa only [FaultsRecorded, div, enc] using h.recorded
  published := by simpa only [FlagPublished, div, flag] using h.published

@[simp] theorem runsIn_nil : runsIn [] = 0 := rfl

@[simp] theorem runsIn_cons (d : DWord) (ds : List DWord) : runsIn (d :: ds) = (descL d).toNat + runsIn ds := by
  simp [runsIn]

@[simp] theorem runsIn_append (ds es : List DWord) : runsIn (ds ++ es) = runsIn ds + runsIn es := by
  simp [runsIn]

theorem divInBlock_iff (d : Divider) : divInBlock d = true ↔ d.st = .readToken ∨ d.st = .flush ∨ d.st = .emitEnd := by
  simp [divInBlock]

theorem encInBlock_iff (e : Encoder) :
    encInBlock e = true ↔ e.st ≠ .idle ∧ e.st ≠ .writeSize ∧ e.st ≠ .done ∧ e.st ≠ .fault := by
  simp [encInBlock]

/-- An END that is both first and last is alone. -/
theorem eq_nil_of_head_end {ds : List DWord} (noEnd : 0 ∉ ds) (head : (ds ++ [0]).head? = some 0) : ds = [] := by
  cases ds with
  | nil => rfl
  | cons d ds =>
    obtain rfl : d = 0 := by simpa using head
    exact absurd List.mem_cons_self noEnd

/-- Outside DIV_READ_TOKEN and DIV_FLUSH the walk says nothing. -/
theorem dividerWalk_of_ne {s : State} (reading : s.div.st ≠ .readToken) (flushing : s.div.st ≠ .flush) : DividerWalk s :=
  ⟨fun st => absurd st reading, fun st => absurd st flushing⟩

/-! ### A unit enters its fault state (R262) -/

theorem PipelineInv.of_raiseDiv {s : State} (h : PipelineInv s) (f : ModelFault) (m : Memory) :
    PipelineInv (raiseDiv f (s.withMem m)) where
  noHarness := h.noHarness
  walk := dividerWalk_of_ne nofun nofun
  counts := h.counts
  streams := .inl (.inl rfl)
  phases := .inl (.inl rfl)
  recorded := ⟨⟨fun _ => rfl, fun _ => rfl⟩, h.recorded.2⟩
  published := nofun

theorem PipelineInv.of_raiseEnc {s : State} (h : PipelineInv s) (f : ModelFault) (m : Memory) :
    PipelineInv (raiseEnc f (s.withMem m)) where
  noHarness := h.noHarness
  walk := h.walk
  counts := by simp [EncoderCounts, raiseEnc]
  streams := .inl (.inr rfl)
  phases := .inl (.inr rfl)
  recorded := ⟨h.recorded.1, ⟨fun _ => rfl, fun _ => rfl⟩⟩
  published := h.published

/-! ### DIV inside a block -/

/-- DIV goes on with its block: it pushes the words `ds`, none of them END, and LIT and its open run account for their L. -/
theorem PipelineInv.of_divMove {s : State} {d : Divider} {m : Memory} {ds : List DWord} (h : PipelineInv s)
    (before : divInBlock s.div = true) (after : divInBlock d = true) (fault : d.fault = s.div.fault)
    (walk : DividerWalk (s.withDiv d)) (desc : m.desc = s.mem.desc ++ ds) (noEnd : 0 ∉ ds)
    (lit : m.lit.length + openRun s.div = s.mem.lit.length + runsIn ds + openRun d) :
    PipelineInv ((s.withMem m).withDiv d) := by
  have was := (divInBlock_iff _).1 before
  have now := (divInBlock_iff _).1 after
  have notFault : s.div.st ≠ .fault := fun e => by simp [e] at was
  refine ⟨h.noHarness, walk, h.counts, ?streams, ?phases, ?recorded, ?published⟩
  case streams =>
    obtain (div | enc) | agree := h.streams
    · exact absurd div notFault
    · exact .inl (.inr enc)
    · refine .inr ?_
      simp only [State.withDiv_mem, State.withDiv_enc, State.withDiv_div, State.withMem_mem, State.withMem_enc, desc,
        runsIn_append]
      omega
  case phases =>
    obtain (div | enc) | ⟨idle, _⟩ | ⟨_, enc, clean⟩ | ⟨done, _⟩ | ⟨done, _⟩ := h.phases
    · exact absurd div notFault
    · exact .inl (.inr enc)
    · simp [idle] at was
    · exact .inr (.inr (.inl ⟨after, enc, desc ▸ List.not_mem_append clean noEnd⟩))
    · simp [done] at was
    · simp [done] at was
  case recorded =>
    refine ⟨⟨fun e => ?_, fun some => ?_⟩, h.recorded.2⟩
    · obtain e' | e' | e' := now <;> cases e'.symm.trans e
    · exact absurd (h.recorded.1.2 (fault ▸ some)) notFault
  case published =>
    intro e
    obtain e' | e' | e' := now <;> cases e'.symm.trans e

/-- A token that is no fault moves the position on to `pos`, at most the end of the block (R121 to R123, R125). -/
theorem PipelineInv.of_tokenMove {s : State} {m : Memory} {ds : List DWord} (h : PipelineInv s)
    (st : s.div.st = .readToken) (litCount pos : Word) (ovf : Bool) (counted : litCount.toNat ≤ pos.toNat)
    (inside : pos.toNat ≤ s.div.n.toNat) (desc : m.desc = s.mem.desc ++ ds) (noEnd : 0 ∉ ds)
    (lit : m.lit.length + s.div.litCount.toNat = s.mem.lit.length + runsIn ds + litCount.toNat) :
    PipelineInv ((s.withMem m).withDiv
      { s.div with litCount := litCount, pos := pos, ovf := ovf, st := walkEnd s.div.n pos }) := by
  have bound := (h.walk.1 st).2.2
  have before : divInBlock s.div = true := (divInBlock_iff _).2 (.inl st)
  have openBefore : openRun s.div = s.div.litCount.toNat := by simp [openRun, st]
  by_cases last : pos = s.div.n
  · rw [walkEnd, if_pos last]
    refine h.of_divMove before rfl rfl ⟨nofun, fun _ => ⟨counted, last, bound⟩⟩ desc noEnd ?_
    rw [openBefore]
    exact lit
  · rw [walkEnd, if_neg last]
    have inside' : pos.toNat < s.div.n.toNat :=
      Nat.lt_of_le_of_ne inside fun e => last (BitVec.eq_of_toNat_eq e)
    refine h.of_divMove before rfl rfl ⟨fun _ => ⟨counted, inside', bound⟩, nofun⟩ desc noEnd ?_
    rw [openBefore]
    exact lit

theorem PipelineInv.of_litEffect {s : State} (h : PipelineInv s) (st : s.div.st = .readToken) (ch : Byte) :
    PipelineInv (litEffect ch s) := by
  obtain ⟨counted, inside, bound⟩ := h.walk.1 st
  simp only [maxBlock] at bound
  have pos : (s.div.pos + 1).toNat = s.div.pos.toNat + 1 := by
    rw [BitVec.toNat_add]; exact Nat.mod_eq_of_lt (by simp; omega)
  have count : (s.div.litCount + 1).toNat = s.div.litCount.toNat + 1 := by
    rw [BitVec.toNat_add]; exact Nat.mod_eq_of_lt (by simp; omega)
  refine h.of_tokenMove (ds := []) st (s.div.litCount + 1) (s.div.pos + 1) s.div.ovf ?_ ?_ (by simp) (by simp) ?_
  · omega
  · omega
  · simp; omega

/-- The position after a match that does not pass the end of the block (R122 to R124). -/
theorem toNat_add_matchCover {n pos : Word} {raw : Byte} (fits : pos.toNat + raw.toNat ≤ n.toNat) :
    (pos + matchCover raw).toNat = pos.toNat + raw.toNat := by
  have small := raw.isLt
  have cover : (matchCover raw).toNat = raw.toNat := by
    rw [matchCover, BitVec.toNat_setWidth]; exact Nat.mod_eq_of_lt (by omega)
  rw [BitVec.toNat_add, cover]
  exact Nat.mod_eq_of_lt (Nat.lt_of_le_of_lt fits n.isLt)

theorem PipelineInv.of_matchEffect {s : State} (h : PipelineInv s) (st : s.div.st = .readToken) (raw : Byte) {off : Half}
    (near : off ≠ 0) (fits : s.div.pos.toNat + raw.toNat ≤ s.div.n.toNat) : PipelineInv (matchEffect raw off s) := by
  have pos := toNat_add_matchCover fits
  refine h.of_tokenMove (ds := [pack s.div.litCount (matchLengthOf raw) off]) st 0 (s.div.pos + matchCover raw) s.div.ovf
    (Nat.zero_le _) (by omega) rfl ?_ ?_
  · simp only [List.mem_singleton, eq_comm (a := (0 : DWord)), pack_eq_zero]
    exact fun zero => near zero.2.2
  · simp

theorem PipelineInv.of_matchOvfEffect {s : State} (h : PipelineInv s) (st : s.div.st = .readToken) (raw : Byte)
    (fits : s.div.pos.toNat + raw.toNat ≤ s.div.n.toNat) : PipelineInv (matchOvfEffect raw s) := by
  have pos := toNat_add_matchCover fits
  obtain ⟨counted, _⟩ := h.walk.1 st
  exact h.of_tokenMove (ds := []) st s.div.litCount (s.div.pos + matchCover raw) true (by omega) (by omega) (by simp)
    (by simp) rfl

/-- The flush pushes the open run's descriptor, whatever its match length and offset (R127, R128). -/
theorem PipelineInv.of_flushPush {s : State} (h : PipelineInv s) (st : s.div.st = .flush) (busy : s.div.litCount ≠ 0)
    (ML OFF : Half) (ovf : Bool) :
    PipelineInv ((s.withMem (s.mem.pushDesc (pack s.div.litCount ML OFF))).withDiv
      { s.div with ovf := ovf, st := .emitEnd }) := by
  refine h.of_divMove (ds := [pack s.div.litCount ML OFF]) ((divInBlock_iff _).2 (.inr (.inl st))) rfl rfl
    (dividerWalk_of_ne nofun nofun) rfl ?_ ?_
  · simp only [List.mem_singleton, eq_comm (a := (0 : DWord)), pack_eq_zero]
    exact fun zero => busy zero.1
  · simp [openRun, st]

theorem PipelineInv.of_flushEffect {s : State} (h : PipelineInv s) (st : s.div.st = .flush) :
    PipelineInv (flushEffect s) := by
  obtain ⟨empty, e⟩ | ⟨busy, _, e⟩ | ⟨busy, _, e⟩ := flushEffect_cases s <;> rw [e]
  · exact h.of_divMove (m := s.mem) (ds := []) ((divInBlock_iff _).2 (.inr (.inl st))) rfl rfl
      (dividerWalk_of_ne nofun nofun) (by simp) (by simp) (by simp [openRun, st, empty])
  · exact h.of_flushPush st busy _ _ true
  · exact h.of_flushPush st busy 0 0 s.div.ovf

/-- DIV ends its block: END goes last on DESC (R129). -/
theorem PipelineInv.of_emitEndEffect {s : State} (h : PipelineInv s) (st : s.div.st = .emitEnd) :
    PipelineInv (emitEndEffect s) := by
  refine ⟨h.noHarness, dividerWalk_of_ne nofun nofun, h.counts, ?streams, ?phases, ?recorded, fun _ => rfl⟩
  case streams =>
    obtain (div | enc) | agree := h.streams
    · cases st.symm.trans div
    · exact .inl (.inr enc)
    · refine .inr ?_
      simpa [emitEndEffect, publishFlag, openRun, st, descL] using agree
  case phases =>
    obtain (div | enc) | ⟨idle, _⟩ | ⟨_, enc, clean⟩ | ⟨done, _⟩ | ⟨done, _⟩ := h.phases
    · cases st.symm.trans div
    · exact .inl (.inr enc)
    · cases st.symm.trans idle
    · exact .inr (.inr (.inr (.inl ⟨rfl, enc, s.mem.desc, rfl, clean⟩)))
    · cases st.symm.trans done
    · cases st.symm.trans done
  case recorded =>
    refine ⟨⟨nofun, fun some => ?_⟩, h.recorded.2⟩
    cases st.symm.trans (h.recorded.1.2 some)

theorem PipelineInv.of_divStep {s t : State} (h : PipelineInv s) (step : DivStep s t) : PipelineInv t := by
  cases step with
  | stuck => exact h
  | lit ch off st => exact h.of_litEffect st ch
  | fault w f => exact h.of_raiseDiv f _
  | matched ch raw off st head long near fits => exact h.of_matchEffect st raw near fits
  | dropped ch raw off st head long near fits => exact h.of_matchOvfEffect st raw fits
  | flush st => exact h.of_flushEffect st
  | emitEnd st => exact h.of_emitEndEffect st

/-! ### ENC inside a block -/

/-- ENC may go on from `s` with the registers `e`, `taken` literal bytes taken off LIT: it is still in its block, no fault is
recorded that was not, the counters are right, and it owes `taken` bytes fewer. -/
structure EncoderGoesOn (s : State) (e : Encoder) (taken : Nat) : Prop where
  inBlock : encInBlock e = true
  fault : e.fault = s.enc.fault
  counts : EncoderCounts (s.withEnc e)
  owed : literalsOwed e + taken = literalsOwed s.enc

/-- ENC goes on with its block: DESC is as it was, and LIT gives up what ENC takes. -/
theorem PipelineInv.of_goesOn {s : State} {e : Encoder} {m : Memory} {taken : Nat} (h : PipelineInv s)
    (before : encInBlock s.enc = true) (on : EncoderGoesOn s e taken) (desc : m.desc = s.mem.desc)
    (lit : m.lit.length + taken = s.mem.lit.length) : PipelineInv ((s.withMem m).withEnc e) := by
  have was := (encInBlock_iff _).1 before
  have now := (encInBlock_iff _).1 on.inBlock
  obtain ⟨notIdle, notWriting, notDone, notFault⟩ := was
  refine ⟨h.noHarness, h.walk, on.counts, ?streams, ?phases, ?recorded, h.published⟩
  case streams =>
    obtain (div | enc) | agree := h.streams
    · exact .inl (.inl div)
    · exact absurd enc notFault
    · refine .inr ?_
      have owed := on.owed
      simp only [State.withEnc_mem, State.withEnc_enc, State.withEnc_div, State.withMem_mem, State.withMem_div, desc]
      omega
  case phases =>
    obtain (div | enc) | ⟨_, idle, _⟩ | ⟨div, _, clean⟩ | ⟨div, _, ds, last, clean⟩ | ⟨_, writing | done, _⟩ := h.phases
    · exact .inl (.inl div)
    · exact absurd enc notFault
    · exact absurd idle notIdle
    · exact .inr (.inr (.inl ⟨div, on.inBlock, desc ▸ clean⟩))
    · exact .inr (.inr (.inr (.inl ⟨div, on.inBlock, ds, desc.trans last, clean⟩)))
    · exact absurd writing notWriting
    · exact absurd done notDone
  case recorded =>
    refine ⟨h.recorded.1, fun e => absurd e now.2.2.2, fun some => ?_⟩
    exact absurd (h.recorded.2.2 (on.fault ▸ some)) notFault

/-- Emitting a byte (R165, R167 to R171): OUT and `enc.size` are outside the invariant, and R181's fault keeps it. -/
theorem PipelineInv.of_emit {s : State} {b : Byte} {m : Memory} {e : Encoder} (before : PipelineInv s)
    (after : PipelineInv ((s.withMem m).withEnc e)) : PipelineInv (emit b m e s) := by
  by_cases full : s.enc.size = BitVec.allOnes 32
  · rw [emit_of_eq full]
    exact before.of_raiseEnc _ s.mem
  · rw [emit_of_ne full]
    exact ⟨after.noHarness, after.walk, after.counts, after.streams, after.phases, after.recorded, after.published⟩

/-- Emitting a byte that takes nothing off LIT. -/
theorem PipelineInv.of_emit_goesOn {s : State} {b : Byte} {e : Encoder} (h : PipelineInv s)
    (before : encInBlock s.enc = true) (on : EncoderGoesOn s e 0) : PipelineInv (emit b s.mem e s) :=
  h.of_emit (h.of_goesOn before on rfl rfl)

/-- After its literals ENC reads the next descriptor or goes on to the offset, and owes no literal byte (R166). -/
theorem EncoderGoesOn.of_afterLiterals {s : State} {taken : Nat} (owed : taken = literalsOwed s.enc) (litLeft : Word) :
    EncoderGoesOn s { s.enc with litLeft := litLeft, st := afterLiterals s.enc } taken := by
  cases only : isLiteralOnly s.enc.ML s.enc.OFF
  · have st : afterLiterals s.enc = .emitOffsetLow := by simp [afterLiterals, only]
    rw [st]
    exact ⟨rfl, rfl, by simp [EncoderCounts, only], by simp [literalsOwed, owed]⟩
  · have st : afterLiterals s.enc = .readDescriptor := by simp [afterLiterals, only]
    rw [st]
    exact ⟨rfl, rfl, by simp [EncoderCounts], by simp [literalsOwed, owed]⟩

theorem EncoderGoesOn.of_afterTokenByte {s : State} (st : s.enc.st = .emitTokenByte) :
    EncoderGoesOn s (afterTokenByte s.enc) 0 := by
  unfold afterTokenByte
  split
  case isTrue long =>
    have rem : (s.enc.L - BitVec.ofNat 32 nibbleMax).toNat = s.enc.L.toNat - nibbleMax :=
      BitVec.toNat_sub_of_le long
    exact ⟨rfl, rfl, by simp [EncoderCounts, long, rem], by simp [literalsOwed, st]⟩
  case isFalse =>
    split
    case isTrue short => exact ⟨rfl, rfl, by simp [EncoderCounts]; omega, by simp [literalsOwed, st]⟩
    case isFalse none => exact .of_afterLiterals (by simp [literalsOwed, st]; omega) s.enc.litLeft

/-- An extension byte lowers the remainder; the last one leaves it and goes on with `last` (R167, R171). -/
theorem PipelineInv.of_extByteEffect {s : State} {last : Encoder} (h : PipelineInv s) (before : encInBlock s.enc = true)
    (more : extUnit ≤ s.enc.rem.toNat →
      EncoderGoesOn s { s.enc with rem := s.enc.rem - BitVec.ofNat 32 extUnit } 0)
    (final : EncoderGoesOn s last 0) : PipelineInv (extByteEffect last s) := by
  unfold extByteEffect
  split
  case isTrue full => exact h.of_emit_goesOn before (more full)
  case isFalse => exact h.of_emit_goesOn before final

/-- The remainder after a continuation byte. -/
theorem toNat_sub_extUnit {rem : Word} (full : extUnit ≤ rem.toNat) :
    (rem - BitVec.ofNat 32 extUnit).toNat = rem.toNat - extUnit :=
  BitVec.toNat_sub_of_le full

theorem PipelineInv.of_litLenExtEffect {s : State} (h : PipelineInv s) (st : s.enc.st = .emitLitLenExt) :
    PipelineInv (litLenExtEffect s) := by
  obtain ⟨long, rem⟩ := h.counts.1 st
  have before : encInBlock s.enc = true := by simp [encInBlock, st]
  refine h.of_extByteEffect before (fun full => ⟨before, rfl, ?_, rfl⟩) ⟨rfl, rfl, ?_, by simp [literalsOwed, st]⟩
  · simp [EncoderCounts, st, long, toNat_sub_extUnit full]
    omega
  · simp only [nibbleMax] at long
    simp [EncoderCounts]
    omega

theorem PipelineInv.of_matchLenExtEffect {s : State} (h : PipelineInv s) (st : s.enc.st = .emitMatchLenExt) :
    PipelineInv (matchLenExtEffect s) := by
  obtain ⟨_, _, _, counts⟩ := h.counts
  obtain ⟨long, rem⟩ := counts st
  have before : encInBlock s.enc = true := by simp [encInBlock, st]
  refine h.of_extByteEffect before (fun full => ⟨before, rfl, ?_, rfl⟩) ⟨rfl, rfl, ?_, by simp [literalsOwed, st]⟩
  · simp [EncoderCounts, st, long, toNat_sub_extUnit full]
    omega
  · simp [EncoderCounts]

/-- The registers after a literal byte, with at least one byte left before it (R168). -/
theorem EncoderGoesOn.of_afterLiteralByte {s : State} (st : s.enc.st = .emitLiteralBytes) (some : 1 ≤ s.enc.litLeft.toNat)
    (bound : s.enc.litLeft.toNat ≤ s.enc.L.toNat) : EncoderGoesOn s (afterLiteralByte s.enc) 1 := by
  have left : (s.enc.litLeft - 1).toNat = s.enc.litLeft.toNat - 1 := BitVec.toNat_sub_of_le some
  unfold afterLiteralByte
  split
  case isTrue last =>
    rw [last] at left
    exact .of_afterLiterals (by simp [literalsOwed, st] at left ⊢; omega) _
  case isFalse more =>
    have pos : (s.enc.litLeft - 1).toNat ≠ 0 := fun zero => more (BitVec.eq_of_toNat_eq zero)
    exact ⟨rfl, rfl, by simp [EncoderCounts]; omega, by simp [literalsOwed, st]; omega⟩

theorem PipelineInv.of_literalByteEffect {s : State} (h : PipelineInv s) (st : s.enc.st = .emitLiteralBytes) :
    PipelineInv (literalByteEffect s) := by
  obtain ⟨some, bound⟩ := h.counts.2.1 st
  unfold literalByteEffect
  split
  · exact h
  · rename_i b bs lit
    exact h.of_emit (h.of_goesOn (by simp [encInBlock, st]) (.of_afterLiteralByte st some bound) rfl (by simp [lit]))

theorem EncoderGoesOn.of_afterOffsetHigh {s : State} (st : s.enc.st = .emitOffsetHigh) :
    EncoderGoesOn s (afterOffsetHigh s.enc) 0 := by
  unfold afterOffsetHigh
  split
  case isTrue long =>
    have wide : (s.enc.ML.setWidth 32).toNat = s.enc.ML.toNat := by
      rw [BitVec.toNat_setWidth]; exact Nat.mod_eq_of_lt (by omega)
    have rem : (s.enc.ML.setWidth 32 - BitVec.ofNat 32 nibbleMax).toNat = s.enc.ML.toNat - nibbleMax := by
      rw [← wide] at long ⊢; exact BitVec.toNat_sub_of_le long
    exact ⟨rfl, rfl, by simp [EncoderCounts, long, rem], by simp [literalsOwed, st]⟩
  case isFalse => exact ⟨rfl, rfl, by simp [EncoderCounts], by simp [literalsOwed, st]⟩

/-- The low byte of the offset leaves the rest of the match to emit (R169). -/
theorem EncoderGoesOn.of_offsetLow {s : State} (h : PipelineInv s) (st : s.enc.st = .emitOffsetLow) :
    EncoderGoesOn s { s.enc with st := .emitOffsetHigh } 0 := by
  obtain ⟨_, _, hasMatch, _⟩ := h.counts
  exact ⟨rfl, rfl, by simp [EncoderCounts, hasMatch (.inl st)], by simp [literalsOwed, st]⟩

/-- The empty block's output: a state of the block in which no literal byte is owed follows another (R161, R162). -/
theorem EncoderGoesOn.of_emptyBlock {s : State} {st : EncState} (owed : literalsOwed s.enc = 0)
    (next : st = .emptyTerm ∨ st = .emptyDiscard) : EncoderGoesOn s { s.enc with st := st } 0 := by
  obtain rfl | rfl := next <;> exact ⟨rfl, rfl, by simp [EncoderCounts], owed.symm⟩

/-! ### ENC takes a descriptor -/

/-- ENC takes END, which is then the only word on DESC, and leaves the block (R163, R164). -/
theorem PipelineInv.of_endTaken {s : State} {st : EncState} (h : PipelineInv s) (before : encInBlock s.enc = true)
    (owed : literalsOwed s.enc = 0) (head : s.mem.desc.head? = some 0) (next : st = .writeSize ∨ st = .done) :
    PipelineInv ((s.withMem s.mem.popDesc).withEnc { s.enc with st := st }) := by
  obtain ⟨notIdle, notWriting, notDone, notFault⟩ := (encInBlock_iff _).1 before
  obtain ⟨ds, desc⟩ := List.head?_eq_some_iff.1 head
  have owed' : literalsOwed { s.enc with st := st } = 0 := by obtain rfl | rfl := next <;> rfl
  refine ⟨h.noHarness, h.walk, ?counts, ?streams, ?phases, ?recorded, h.published⟩
  case counts => obtain rfl | rfl := next <;> simp [EncoderCounts]
  case streams =>
    obtain (div | enc) | agree := h.streams
    · exact .inl (.inl div)
    · exact absurd enc notFault
    · refine .inr ?_
      simpa [owed, owed', desc, descL] using agree
  case phases =>
    obtain (div | enc) | ⟨_, idle, _⟩ | ⟨_, _, clean⟩ | ⟨div, _, ds', last, clean⟩ | ⟨_, writing | done, _⟩ := h.phases
    · exact .inl (.inl div)
    · exact absurd enc notFault
    · exact absurd idle notIdle
    · exact absurd (desc ▸ List.mem_cons_self) clean
    · have alone := eq_nil_of_head_end clean (last ▸ head)
      exact .inr (.inr (.inr (.inr ⟨div, next, by simp [last, alone]⟩)))
    · exact absurd writing notWriting
    · exact absurd done notDone
  case recorded =>
    refine ⟨h.recorded.1, fun e => ?_, fun some => absurd (h.recorded.2.2 some) notFault⟩
    obtain rfl | rfl := next <;> cases e

/-- ENC takes a descriptor other than END and owes its literals (R164). -/
theorem PipelineInv.of_latchEffect {s : State} {L : Word} {ML OFF : Half} (h : PipelineInv s)
    (st : s.enc.st = .readDescriptor) (head : s.mem.desc.head? = some (pack L ML OFF)) (nonzero : pack L ML OFF ≠ 0) :
    PipelineInv (latchEffect L ML OFF s) := by
  obtain ⟨ds, desc⟩ := List.head?_eq_some_iff.1 head
  refine ⟨h.noHarness, h.walk, by simp [EncoderCounts, latchEffect], ?streams, ?phases, ?recorded, h.published⟩
  case streams =>
    obtain (div | enc) | agree := h.streams
    · exact .inl (.inl div)
    · cases st.symm.trans enc
    · refine .inr ?_
      simpa [latchEffect, literalsOwed, desc, st] using agree
  case phases =>
    obtain (div | enc) | ⟨_, idle, _⟩ | ⟨div, _, clean⟩ | ⟨div, _, ds', last, clean⟩ | ⟨_, writing | done, _⟩ := h.phases
    · exact .inl (.inl div)
    · cases st.symm.trans enc
    · cases st.symm.trans idle
    · exact .inr (.inr (.inl ⟨div, rfl, fun mem => clean (List.mem_of_mem_tail mem)⟩))
    · cases ds' with
      | nil => exact absurd (by simpa [last] using head.symm) nonzero
      | cons d ds' =>
        refine .inr (.inr (.inr (.inl ⟨div, rfl, ds', by simp [latchEffect, last], ?_⟩)))
        exact fun mem => clean (List.mem_cons_of_mem d mem)
    · cases st.symm.trans writing
    · cases st.symm.trans done
  case recorded =>
    refine ⟨h.recorded.1, nofun, fun some => ?_⟩
    cases st.symm.trans (h.recorded.2.2 some)

/-- ENC reports the block's size and is done (R172). -/
theorem PipelineInv.of_writeSizeEffect {s : State} (h : PipelineInv s) (st : s.enc.st = .writeSize) :
    PipelineInv (writeSizeEffect s) := by
  refine ⟨h.noHarness, h.walk, by simp [EncoderCounts, writeSizeEffect], ?streams, ?phases, ?recorded, h.published⟩
  case streams =>
    obtain (div | enc) | agree := h.streams
    · exact .inl (.inl div)
    · cases st.symm.trans enc
    · refine .inr ?_
      simpa [writeSizeEffect, literalsOwed, st] using agree
  case phases =>
    obtain (div | enc) | ⟨_, idle, _⟩ | ⟨_, inBlock, _⟩ | ⟨_, inBlock, _⟩ | ⟨div, _, empty⟩ := h.phases
    · exact .inl (.inl div)
    · cases st.symm.trans enc
    · cases st.symm.trans idle
    · simp [encInBlock, st] at inBlock
    · simp [encInBlock, st] at inBlock
    · exact .inr (.inr (.inr (.inr ⟨div, .inr rfl, empty⟩)))
  case recorded =>
    refine ⟨h.recorded.1, nofun, fun some => ?_⟩
    cases st.symm.trans (h.recorded.2.2 some)

theorem PipelineInv.of_encStep {s t : State} (h : PipelineInv s) (step : EncStep s t) : PipelineInv t := by
  cases step with
  | stuck => exact h
  | finish st head => exact h.of_endTaken (by simp [encInBlock, st]) (by simp [literalsOwed, st]) head (.inl rfl)
  | discard st head => exact h.of_endTaken (by simp [encInBlock, st]) (by simp [literalsOwed, st]) head (.inr rfl)
  | latch L ML OFF st head nonzero => exact h.of_latchEffect st head nonzero
  | notSentinel d => exact h.of_raiseEnc (.emptyNotSentinel d) s.mem.popDesc
  | emptySize st =>
    exact h.of_goesOn (by simp [encInBlock, st]) (.of_emptyBlock (by simp [literalsOwed, st]) (.inl rfl)) rfl rfl
  | emptyTerm st =>
    exact h.of_goesOn (by simp [encInBlock, st]) (.of_emptyBlock (by simp [literalsOwed, st]) (.inr rfl)) rfl rfl
  | tokenByte st => exact h.of_emit_goesOn (by simp [encInBlock, st]) (.of_afterTokenByte st)
  | litLenExt st => exact h.of_litLenExtEffect st
  | literalByte st => exact h.of_literalByteEffect st
  | offsetLow st => exact h.of_emit_goesOn (by simp [encInBlock, st]) (.of_offsetLow h st)
  | offsetHigh st => exact h.of_emit_goesOn (by simp [encInBlock, st]) (.of_afterOffsetHigh st)
  | matchLenExt st => exact h.of_matchLenExtEffect st
  | writeSize st => exact h.of_writeSizeEffect st

/-! ### The host -/

/-- The state after reset, for every configuration (R290). -/
theorem PipelineInv.of_resetWith (c : Config) : PipelineInv (State.resetWith c) where
  noHarness := ⟨rfl, rfl⟩
  walk := dividerWalk_of_ne nofun nofun
  counts := by simp [EncoderCounts, State.resetWith, Encoder.reset]
  streams := .inr rfl
  phases := .inr (.inl ⟨rfl, rfl, rfl⟩)
  recorded := ⟨⟨nofun, nofun⟩, ⟨nofun, nofun⟩⟩
  published := nofun

/-- Where START is allowed the previous block has left LIT and DESC empty (R223, R226). -/
theorem PipelineInv.streams_empty {s : State} (h : PipelineInv s) (allowed : startAllowed s = true) :
    s.mem.lit = [] ∧ s.mem.desc = [] := by
  obtain ⟨div, enc, _⟩ := (startAllowed_iff s).1 allowed
  have notFaulted : ¬ faulted s := by
    obtain d | d := div <;> obtain e | e := enc <;> simp [faulted, d, e]
  have outside : ¬ encInBlock s.enc = true := by
    obtain e | e := enc <;> simp [encInBlock, e]
  have owed : literalsOwed s.enc = 0 := by
    obtain e | e := enc <;> simp [literalsOwed, e]
  have run : openRun s.div = 0 := by
    obtain d | d := div <;> simp [openRun, d]
  have desc : s.mem.desc = [] := by
    obtain f | ⟨_, _, empty⟩ | ⟨_, inBlock, _⟩ | ⟨_, inBlock, _⟩ | ⟨_, _, empty⟩ := h.phases
    · exact absurd f notFaulted
    · exact empty
    · exact absurd inBlock outside
    · exact absurd inBlock outside
    · exact empty
  have agree := h.streams.resolve_left notFaulted
  exact ⟨List.eq_nil_of_length_eq_zero (by simp [agree, owed, run, desc]), desc⟩

/-- START takes DIV to its fault state, or into the block with no run open and no fault recorded that was not (R120). -/
theorem divStart_cases (n : Word) (d : Divider) :
    divStart n d = { d with st := .fault, fault := some (.blockTooLong n) } ∨
    (divInBlock (divStart n d) = true ∧ openRun (divStart n d) = 0 ∧ (divStart n d).fault = d.fault) := by
  unfold divStart
  split
  · exact .inl rfl
  · split
    · exact .inr ⟨rfl, rfl, rfl⟩
    · exact .inr ⟨rfl, rfl, rfl⟩

/-- The walk starts at 0, below n (R120). -/
theorem dividerWalk_divStart (n : Word) (s : State) : DividerWalk (s.withDiv (divStart n s.div)) := by
  unfold divStart
  split
  case isTrue => exact dividerWalk_of_ne nofun nofun
  case isFalse fits =>
    split
    case isTrue => exact dividerWalk_of_ne nofun nofun
    case isFalse nonempty =>
      have positive : n.toNat ≠ 0 := fun zero => nonempty (BitVec.eq_of_toNat_eq zero)
      exact ⟨fun _ => ⟨Nat.le_refl 0, Nat.pos_of_ne_zero positive, Nat.le_of_not_lt fits⟩, nofun⟩

/-- START takes ENC into the block with no literal byte owed (R160). -/
theorem encStart_inBlock (n : Word) (e : Encoder) :
    encInBlock (encStart n e) = true ∧ literalsOwed (encStart n e) = 0 := by
  unfold encStart
  split <;> exact ⟨rfl, rfl⟩

theorem encoderCounts_encStart (n : Word) (s : State) : EncoderCounts (s.withEnc (encStart n s.enc)) := by
  unfold encStart
  split <;> simp [EncoderCounts]

/-- START finds LIT and DESC empty and no unit faulted; then DIV faults, or both units enter the same block (R120, R160). -/
theorem PipelineInv.of_startEffect {s : State} (h : PipelineInv s) (allowed : startAllowed s = true) (n : Word) :
    PipelineInv (startEffect n s) := by
  obtain ⟨div, enc, _⟩ := (startAllowed_iff s).1 allowed
  obtain ⟨lit, desc⟩ := h.streams_empty allowed
  obtain ⟨encIn, owed⟩ := encStart_inBlock n s.enc
  have encFault : s.enc.st ≠ .fault := by obtain e | e := enc <;> simp [e]
  have divFault : s.div.st ≠ .fault := by obtain d | d := div <;> simp [d]
  have encRecorded : (encStart n s.enc).st = .fault ↔ s.enc.fault.isSome = true :=
    ⟨fun e => absurd e ((encInBlock_iff _).1 encIn).2.2.2, fun some => absurd (h.recorded.2.2 some) encFault⟩
  obtain tooLong | ⟨divIn, run, fault⟩ := divStart_cases n s.div
  · exact ⟨h.noHarness, dividerWalk_divStart n s, encoderCounts_encStart n s, .inl (.inl (by simp [startEffect, tooLong])),
      .inl (.inl (by simp [startEffect, tooLong])), ⟨by simp [startEffect, tooLong], encRecorded⟩,
      by simp [FlagPublished, startEffect, tooLong]⟩
  · have now := (divInBlock_iff _).1 divIn
    refine ⟨h.noHarness, dividerWalk_divStart n s, encoderCounts_encStart n s, .inr ?_, .inr (.inr (.inl ?_)),
      ⟨⟨fun e => ?_, fun some => ?_⟩, encRecorded⟩, fun done => ?_⟩
    · simp [startEffect, lit, desc, owed, run]
    · exact ⟨divIn, encIn, by simp [startEffect, desc]⟩
    · obtain d | d | d := now <;> cases d.symm.trans e
    · exact absurd (h.recorded.1.2 (fault ▸ some)) divFault
    · obtain d | d | d := now <;> cases d.symm.trans done

theorem PipelineInv.of_resetLane {s : State} (h : PipelineInv s) : PipelineInv (resetLane s) :=
  (PipelineInv.of_resetWith s.cfg).congr rfl rfl rfl rfl rfl h.noHarness.1 h.noHarness.2

theorem PipelineInv.of_runCommand {c : Command} {s t : State} (h : PipelineInv s) (run : runCommand c s = .next t) :
    PipelineInv t := by
  cases c with
  | start n =>
    obtain ⟨allowed, _, rfl⟩ := execStart_cases run
    exact h.of_startEffect allowed n
  | setMaxLitCount m =>
    obtain ⟨_, _, rfl⟩ := setMaxLitCount_cases run
    exact h.congr rfl rfl rfl rfl rfl rfl rfl
  | readFlag => cases run; exact h.congr rfl rfl rfl rfl rfl rfl rfl
  | reset => cases run; exact h.of_resetLane

theorem PipelineInv.of_controllerTurn {s t : State} (h : PipelineInv s) (turn : controllerTurn s = .next t) :
    PipelineInv t := by
  obtain rfl | ⟨c, cs, _, run⟩ := controllerTurn_cases turn
  · exact h
  · have h' : PipelineInv (s.withEnv { s.env with cmds := cs }) := h.congr rfl rfl rfl rfl rfl rfl rfl
    exact h'.of_runCommand run

theorem PipelineInv.of_produceTok {s : State} (h : PipelineInv s) : PipelineInv (produceTok s) := by
  unfold produceTok
  split
  · exact h
  · split
    · exact h.congr rfl rfl rfl rfl rfl rfl rfl
    · exact h

theorem PipelineInv.of_consumeOut {s : State} (h : PipelineInv s) : PipelineInv (consumeOut s) := by
  unfold consumeOut
  split
  · exact h
  · exact h.congr rfl rfl rfl rfl rfl rfl rfl

theorem PipelineInv.of_consumeSize {s : State} (h : PipelineInv s) : PipelineInv (consumeSize s) := by
  unfold consumeSize
  split
  · exact h
  · exact h.congr rfl rfl rfl rfl rfl rfl rfl

/-- Without a harness the two drivers have nothing to push (R85). -/
theorem driveDesc_of_noHarness {s : State} (quiet : NoHarness s) : driveDesc s = s := by
  simp [driveDesc, quiet.1]

theorem driveLit_of_noHarness {s : State} (quiet : NoHarness s) : driveLit s = s := by
  simp [driveLit, quiet.2]

theorem PipelineInv.of_act {a : Agent} {s t : State} (h : PipelineInv s) (turn : act a s = .next t) : PipelineInv t := by
  cases a with
  | div => exact h.of_divStep (DivStep.of_turn turn)
  | enc => exact h.of_encStep (EncStep.of_turn turn)
  | controller => exact h.of_controllerTurn turn
  | tokProducer => cases turn; exact h.of_produceTok
  | outConsumer => cases turn; exact h.of_consumeOut
  | sizeConsumer => cases turn; exact h.of_consumeSize
  | descDriver => cases turn; rw [driveDesc_of_noHarness h.noHarness]; exact h
  | litDriver => cases turn; rw [driveLit_of_noHarness h.noHarness]; exact h

/-- Settles O50: the invariant does not read the schedule, and each agent's turn keeps it. -/
theorem pipelineInvariantKept : Obligations.PipelineInvariantKept := fun _ _ =>
  inv_of_step (fun _ _ _ h => h.congr rfl rfl rfl rfl rfl rfl rfl) fun _ _ _ h => h.of_act

end Sys2Proof.Safety
end

section
/-! PROOFS, the statements of 20_memory.md on the turns of the host's channel agents and of the two units. A turn of DIV and one
of ENC are each a move at the unit's own channel ends (R65, R220), and an enabled turn makes the same move before and after the
other unit's, so the two commute (R69, R266). -/

namespace Sys2Proof.Machine

/-! ### The host's three channel agents (R61, R222, R224) -/

section hostTurns
variable {s : State}

theorem produceTok_of_room {w : Word} {rest : List Word} (toks : s.env.toks = w :: rest) (room : s.tokRoom = true) :
    produceTok s = (s.withMem (s.mem.pushTok w)).withEnv { s.env with toks := rest } := by
  simp only [produceTok, toks, if_pos room]

/-- With nothing to push the producer's turn changes nothing either. -/
theorem produceTok_of_full (full : ¬ s.tokRoom = true) : produceTok s = s := by
  cases toks : s.env.toks with
  | nil => simp only [produceTok, toks]
  | cons => simp only [produceTok, toks, if_neg full]

theorem consumeOut_of_cons {b : Byte} {rest : List Byte} (out : s.mem.out = b :: rest) :
    consumeOut s = (s.withMem s.mem.popOut).withEnv { s.env with outTaken := s.env.outTaken ++ [b] } := by
  simp only [consumeOut, out]

theorem consumeOut_of_empty (out : s.mem.out = []) : consumeOut s = s := by
  simp only [consumeOut, out]

theorem consumeSize_of_cons {n : Word} {rest : List Word} (size : s.mem.size = n :: rest) :
    consumeSize s = (s.withMem s.mem.popSize).withEnv { s.env with sizesTaken := s.env.sizesTaken ++ [n] } := by
  simp only [consumeSize, size]

theorem consumeSize_of_empty (size : s.mem.size = []) : consumeSize s = s := by
  simp only [consumeSize, size]

end hostTurns

/-- Settles O32: a turn of each agent by whether its channel has room, or an element. -/
theorem hostChannelTurns : Obligations.HostChannelTurns := by
  intro s
  refine ⟨fun w rest toks room => ?_, fun full => ?_, fun b rest out => ?_, fun out => ?_, fun n rest size => ?_,
    fun size => ?_⟩
  · exact congrArg _ (produceTok_of_room toks ((State.tokRoom_iff s).2 room))
  · exact congrArg _ (produceTok_of_full fun room => Nat.not_lt_of_le full ((State.tokRoom_iff s).1 room))
  · have rest_eq : rest = s.mem.out.tail := by rw [out]; rfl
    rw [rest_eq]
    exact congrArg _ (consumeOut_of_cons out)
  · exact congrArg _ (consumeOut_of_empty out)
  · have rest_eq : rest = s.mem.size.tail := by rw [size]; rfl
    rw [rest_eq]
    exact congrArg _ (consumeSize_of_cons size)
  · exact congrArg _ (consumeSize_of_empty size)

/-! ### A turn of a unit is a move at its channel ends (R65, R220) -/

/-- What DIV pops in a turn: nothing, or the head of TOK. -/
inductive DivPop where
  | nothing
  | tok

/-- What DIV pushes in a turn: nothing, a byte on LIT or a word on DESC. -/
inductive DivPush where
  | nothing
  | lit (b : Byte)
  | desc (d : DWord)

/-- What ENC pops in a turn: nothing, the head of LIT or the head of DESC. -/
inductive EncPop where
  | nothing
  | lit
  | desc

/-- What ENC pushes in a turn: nothing, a byte on OUT or a size on SIZE. -/
inductive EncPush where
  | nothing
  | out (b : Byte)
  | size (n : Word)

def Memory.divPop (m : Memory) : DivPop → Memory
  | .nothing => m
  | .tok => m.popTok

def Memory.divPush (m : Memory) : DivPush → Memory
  | .nothing => m
  | .lit b => m.pushLit b
  | .desc d => m.pushDesc d

def Memory.encPop (m : Memory) : EncPop → Memory
  | .nothing => m
  | .lit => m.popLit
  | .desc => m.popDesc

def Memory.encPush (m : Memory) : EncPush → Memory
  | .nothing => m
  | .out b => m.pushOut b
  | .size n => m.pushSize n

/-- The channel that ENC pops has a head. -/
def EncPop.possible (m : Memory) : EncPop → Prop
  | .nothing => True
  | .lit => m.lit ≠ []
  | .desc => m.desc ≠ []

/-- A turn of DIV: the registers and the OVF_FLAG it leaves, what it pops and what it pushes. -/
structure DivMove where
  div : Divider
  flag : Bool
  pop : DivPop
  push : DivPush

/-- A turn of ENC: the registers it leaves, what it pops and what it pushes. -/
structure EncMove where
  enc : Encoder
  pop : EncPop
  push : EncPush

def DivMove.apply (y : DivMove) (s : State) : State :=
  { s with div := y.div, ovfFlag := y.flag, mem := (s.mem.divPop y.pop).divPush y.push }

def EncMove.apply (x : EncMove) (s : State) : State :=
  { s with enc := x.enc, mem := (s.mem.encPop x.pop).encPush x.push }

/-! ### Moves of the two units commute (R69, R266) -/

theorem Memory.encPop_divPop (m : Memory) (pop : DivPop) (pop' : EncPop) :
    (m.divPop pop).encPop pop' = (m.encPop pop').divPop pop := by
  cases pop <;> cases pop' <;> rfl

/-- Pushing at the tail of a channel and popping its head commute, for the channel popped is not empty (R61). -/
theorem Memory.encPop_divPush {m : Memory} {pop : EncPop} (possible : pop.possible m) (push : DivPush) :
    (m.divPush push).encPop pop = (m.encPop pop).divPush push := by
  cases push with
  | nothing => rfl
  | lit b =>
    cases pop with
    | nothing | desc => rfl
    | lit => simp [divPush, encPop, pushLit, popLit, tail_append_singleton possible]
  | desc d =>
    cases pop with
    | nothing | lit => rfl
    | desc => simp [divPush, encPop, pushDesc, popDesc, tail_append_singleton possible]

theorem Memory.encPush_divPop (m : Memory) (pop : DivPop) (push : EncPush) :
    (m.divPop pop).encPush push = (m.encPush push).divPop pop := by
  cases pop <;> cases push <;> rfl

theorem Memory.encPush_divPush (m : Memory) (push : DivPush) (push' : EncPush) :
    (m.divPush push).encPush push' = (m.encPush push').divPush push := by
  cases push <;> cases push' <;> rfl

theorem EncPop.possible_divPop {m : Memory} {pop : EncPop} (possible : pop.possible m) (pop' : DivPop) :
    pop.possible (m.divPop pop') := by
  cases pop' <;> cases pop <;> exact possible

/-- Where ENC's pop is possible, it does not matter whether DIV moves before it. -/
theorem EncMove.apply_divMove {x : EncMove} {s : State} (possible : x.pop.possible s.mem) (y : DivMove) :
    x.apply (y.apply s) = y.apply (x.apply s) := by
  simp only [EncMove.apply, DivMove.apply, Memory.encPop_divPush (EncPop.possible_divPop possible y.pop),
    Memory.encPop_divPop, Memory.encPush_divPush, Memory.encPush_divPop]

/-! ### What a move does to each channel (R61) -/

theorem Memory.divPop_eq (m : Memory) (pop : DivPop) :
    ∃ tok, (tok = m.tok ∨ tok = m.tok.tail) ∧ m.divPop pop = { m with tok := tok } := by
  cases pop with
  | nothing => exact ⟨_, .inl rfl, rfl⟩
  | tok => exact ⟨_, .inr rfl, rfl⟩

theorem Memory.divPush_eq (m : Memory) (push : DivPush) :
    ∃ bs ds, bs.length ≤ 1 ∧ ds.length ≤ 1 ∧ m.divPush push = { m with lit := m.lit ++ bs, desc := m.desc ++ ds } := by
  cases push with
  | nothing => exact ⟨[], [], by simp [divPush]⟩
  | lit b => exact ⟨[b], [], by simp [divPush, pushLit]⟩
  | desc d => exact ⟨[], [d], by simp [divPush, pushDesc]⟩

theorem Memory.encPop_eq (m : Memory) (pop : EncPop) :
    ∃ lit desc, (lit = m.lit ∨ lit = m.lit.tail) ∧ (desc = m.desc ∨ desc = m.desc.tail) ∧
      m.encPop pop = { m with lit := lit, desc := desc } := by
  cases pop with
  | nothing => exact ⟨_, _, .inl rfl, .inl rfl, rfl⟩
  | lit => exact ⟨_, _, .inr rfl, .inl rfl, rfl⟩
  | desc => exact ⟨_, _, .inl rfl, .inr rfl, rfl⟩

theorem Memory.encPush_eq (m : Memory) (push : EncPush) :
    ∃ bs ns, bs.length ≤ 1 ∧ ns.length ≤ 1 ∧ m.encPush push = { m with out := m.out ++ bs, size := m.size ++ ns } := by
  cases push with
  | nothing => exact ⟨[], [], by simp [encPush]⟩
  | out b => exact ⟨[b], [], by simp [encPush, pushOut]⟩
  | size n => exact ⟨[], [n], by simp [encPush, pushSize]⟩

theorem DivMove.apply_mem (y : DivMove) (s : State) :
    ∃ tok bs ds, (tok = s.mem.tok ∨ tok = s.mem.tok.tail) ∧ bs.length ≤ 1 ∧ ds.length ≤ 1 ∧
      (y.apply s).mem = { s.mem with tok := tok, lit := s.mem.lit ++ bs, desc := s.mem.desc ++ ds } := by
  obtain ⟨tok, hTok, pop⟩ := s.mem.divPop_eq y.pop
  obtain ⟨bs, ds, hBs, hDs, push⟩ := (s.mem.divPop y.pop).divPush_eq y.push
  exact ⟨tok, bs, ds, hTok, hBs, hDs, push.trans (by rw [pop])⟩

theorem EncMove.apply_mem (x : EncMove) (s : State) :
    ∃ lit desc bs ns, (lit = s.mem.lit ∨ lit = s.mem.lit.tail) ∧ (desc = s.mem.desc ∨ desc = s.mem.desc.tail) ∧
      bs.length ≤ 1 ∧ ns.length ≤ 1 ∧
      (x.apply s).mem = ⟨s.mem.tok, lit, desc, s.mem.out ++ bs, s.mem.size ++ ns⟩ := by
  obtain ⟨lit, desc, hLit, hDesc, pop⟩ := s.mem.encPop_eq x.pop
  obtain ⟨bs, ns, hBs, hNs, push⟩ := (s.mem.encPop x.pop).encPush_eq x.push
  exact ⟨lit, desc, bs, ns, hLit, hDesc, hBs, hNs, push.trans (by rw [pop])⟩

section applied
variable {s : State} (x : EncMove) (y : DivMove)

@[simp] theorem EncMove.apply_tok : (x.apply s).mem.tok = s.mem.tok := by
  obtain ⟨lit, desc, bs, ns, _, _, _, _, mem⟩ := x.apply_mem s
  rw [mem]

/-- ENC only makes room on LIT and on DESC. -/
theorem EncMove.apply_litRoom (room : s.litRoom = true) : (x.apply s).litRoom = true := by
  obtain ⟨lit, desc, bs, ns, hLit, _, _, _, mem⟩ := x.apply_mem s
  have shorter : lit.length ≤ s.mem.lit.length := by obtain rfl | rfl := hLit <;> simp
  rw [State.litRoom_iff, mem]
  exact Nat.lt_of_le_of_lt shorter ((State.litRoom_iff s).1 room)

theorem EncMove.apply_descRoom (room : s.descRoom = true) : (x.apply s).descRoom = true := by
  obtain ⟨lit, desc, bs, ns, _, hDesc, _, _, mem⟩ := x.apply_mem s
  have shorter : desc.length ≤ s.mem.desc.length := by obtain rfl | rfl := hDesc <;> simp
  rw [State.descRoom_iff, mem]
  exact Nat.lt_of_le_of_lt shorter ((State.descRoom_iff s).1 room)

/-- DIV does not touch OUT and SIZE. -/
theorem DivMove.apply_outRoom : (y.apply s).outRoom = s.outRoom := by
  obtain ⟨tok, bs, ds, _, _, _, mem⟩ := y.apply_mem s
  rw [State.outRoom, mem]
  rfl

theorem DivMove.apply_sizeRoom : (y.apply s).sizeRoom = s.sizeRoom := by
  obtain ⟨tok, bs, ds, _, _, _, mem⟩ := y.apply_mem s
  rw [State.sizeRoom, mem]
  rfl

/-- A push of DIV leaves the head of a channel that is not empty. -/
theorem DivMove.apply_lit {b : Byte} {bs : List Byte} (lit : s.mem.lit = b :: bs) :
    ∃ bs', (y.apply s).mem.lit = b :: bs' := by
  obtain ⟨tok, more, ds, _, _, _, mem⟩ := y.apply_mem s
  exact ⟨bs ++ more, by simp [mem, lit]⟩

theorem DivMove.apply_desc {d : DWord} {ds : List DWord} (desc : s.mem.desc = d :: ds) :
    ∃ ds', (y.apply s).mem.desc = d :: ds' := by
  obtain ⟨tok, bs, more, _, _, _, mem⟩ := y.apply_mem s
  exact ⟨ds ++ more, by simp [mem, desc]⟩

end applied

/-! ### The steps of DIV are moves -/

/-- In `s`, and after any move of ENC, `f` is one and the same move of DIV. -/
def DivActs (f : State → State) (s : State) : Prop :=
  ∃ y : DivMove, ∀ x : EncMove, f (x.apply s) = y.apply (x.apply s)

/-- In particular in `s` itself. -/
theorem DivActs.eq_apply {f : State → State} {s : State} (h : DivActs f s) : ∃ y : DivMove, f s = y.apply s := by
  obtain ⟨y, same⟩ := h
  exact ⟨y, same ⟨s.enc, .nothing, .nothing⟩⟩

section divActs
variable (s : State)

theorem DivActs.of_id : DivActs (fun s => s) s := ⟨⟨s.div, s.ovfFlag, .nothing, .nothing⟩, fun _ => rfl⟩

theorem DivActs.of_litEffect (ch : Byte) : DivActs (litEffect ch) s :=
  ⟨⟨(litEffect ch s).div, s.ovfFlag, .tok, .lit ch⟩, fun _ => rfl⟩

theorem DivActs.of_tokenFault (f : ModelFault) : DivActs (tokenFault f) s :=
  ⟨⟨(tokenFault f s).div, s.ovfFlag, .tok, .nothing⟩, fun _ => rfl⟩

theorem DivActs.of_matchEffect (raw : Byte) (off : Half) : DivActs (matchEffect raw off) s :=
  ⟨⟨(matchEffect raw off s).div, s.ovfFlag, .tok, .desc (pack s.div.litCount (matchLengthOf raw) off)⟩,
    fun _ => rfl⟩

theorem DivActs.of_matchOvfEffect (raw : Byte) : DivActs (matchOvfEffect raw) s :=
  ⟨⟨(matchOvfEffect raw s).div, s.ovfFlag, .tok, .nothing⟩, fun _ => rfl⟩

/-- ENC writes neither the count nor the ceiling, so it does not change which flush it is (R126 to R128). -/
theorem DivActs.of_flushEffect : DivActs flushEffect s := by
  by_cases empty : s.div.litCount = 0
  · exact ⟨⟨(flushNone s).div, s.ovfFlag, .nothing, .nothing⟩, fun _ => if_pos empty⟩
  cases trailing : trailingAtCeiling s
  · exact ⟨⟨(flushTrail s).div, s.ovfFlag, .nothing, .desc (pack s.div.litCount 0 0)⟩,
      fun _ => (if_neg empty).trans (if_neg (ne_true_of_eq_false trailing))⟩
  · exact ⟨⟨(flushOvf s).div, s.ovfFlag, .nothing, .desc (pack s.div.litCount s.cfg.ovfSentinel s.cfg.ovfSentinel)⟩,
      fun _ => (if_neg empty).trans (if_pos trailing)⟩

theorem DivActs.of_emitEndEffect : DivActs emitEndEffect s :=
  ⟨⟨(emitEndEffect s).div, s.div.ovf, .nothing, .desc 0⟩, fun _ => rfl⟩

end divActs

theorem DivStep.eq_apply {s t : State} (h : DivStep s t) : ∃ y : DivMove, t = y.apply s := by
  cases h with
  | stuck => exact (DivActs.of_id s).eq_apply
  | lit ch => exact (DivActs.of_litEffect s ch).eq_apply
  | fault w f => exact (DivActs.of_tokenFault s f).eq_apply
  | matched ch raw off => exact (DivActs.of_matchEffect s raw off).eq_apply
  | dropped ch raw => exact (DivActs.of_matchOvfEffect s raw).eq_apply
  | flush => exact (DivActs.of_flushEffect s).eq_apply
  | emitEnd => exact (DivActs.of_emitEndEffect s).eq_apply

/-! ### The steps of ENC are moves -/

/-- In `s`, and after any move of DIV, `f` is one and the same move of ENC, whose pop is possible. -/
def EncActs (f : State → State) (s : State) : Prop :=
  ∃ x : EncMove, x.pop.possible s.mem ∧ ∀ y : DivMove, f (y.apply s) = x.apply (y.apply s)

/-- In particular in `s` itself. -/
theorem EncActs.eq_apply {f : State → State} {s : State} (h : EncActs f s) : ∃ x : EncMove, f s = x.apply s := by
  obtain ⟨x, _, same⟩ := h
  exact ⟨x, same ⟨s.div, s.ovfFlag, .nothing, .nothing⟩⟩

section encActs
variable {s : State}

theorem EncActs.of_id (s : State) : EncActs (fun s => s) s := ⟨⟨s.enc, .nothing, .nothing⟩, trivial, fun _ => rfl⟩

/-- ENC takes a word off DESC, whatever it then writes to its registers. -/
theorem EncActs.of_popDesc (desc : s.mem.desc ≠ []) (e : Encoder → Encoder) :
    EncActs (fun s => (s.withMem s.mem.popDesc).withEnc (e s.enc)) s :=
  ⟨⟨e s.enc, .desc, .nothing⟩, desc, fun _ => rfl⟩

theorem EncActs.of_emptySizeEffect (s : State) : EncActs emptySizeEffect s :=
  ⟨⟨{ s.enc with st := .emptyTerm }, .nothing, .size 0⟩, trivial, fun _ => rfl⟩

theorem EncActs.of_emptyTermEffect (s : State) : EncActs emptyTermEffect s :=
  ⟨⟨{ s.enc with st := .emptyDiscard }, .nothing, .out s.cfg.terminatorByte⟩, trivial, fun _ => rfl⟩

theorem EncActs.of_writeSizeEffect (s : State) : EncActs writeSizeEffect s :=
  ⟨⟨{ s.enc with st := .done }, .nothing, .size s.enc.size⟩, trivial, fun _ => rfl⟩

/-- Emitting a byte: OUT gains it and the pop takes place, or ENC faults and pops nothing (R181). -/
theorem EncActs.of_emit {f : State → State} {pop : EncPop} (possible : pop.possible s.mem) (b : Byte) (e : Encoder)
    (emits : ∀ y : DivMove, f (y.apply s) = emit b ((y.apply s).mem.encPop pop) e (y.apply s)) : EncActs f s := by
  by_cases full : s.enc.size = BitVec.allOnes 32
  · exact ⟨⟨(raiseEnc (.sizeOverflow s.enc.st) s).enc, .nothing, .nothing⟩, trivial,
      fun y => (emits y).trans (emit_of_eq full)⟩
  · exact ⟨⟨{ e with size := s.enc.size + 1 }, pop, .out b⟩, possible, fun y => (emits y).trans (emit_of_ne full)⟩

theorem EncActs.of_tokenByteEffect (s : State) : EncActs tokenByteEffect s :=
  .of_emit (pop := .nothing) trivial (tokenByte s.enc.L s.enc.ML) (afterTokenByte s.enc) fun _ => rfl

/-- The registers `last` after the final extension byte are made of ENC's own. -/
theorem EncActs.of_extByteEffect (s : State) (last : Encoder → Encoder) :
    EncActs (fun s => extByteEffect (last s.enc) s) s := by
  by_cases more : extUnit ≤ s.enc.rem.toNat
  · exact .of_emit (pop := .nothing) trivial (BitVec.ofNat 8 extUnit)
      { s.enc with rem := s.enc.rem - BitVec.ofNat 32 extUnit } fun _ => if_pos more
  · exact .of_emit (pop := .nothing) trivial (s.enc.rem.setWidth 8) (last s.enc) fun _ => if_neg more

theorem EncActs.of_litLenExtEffect (s : State) : EncActs litLenExtEffect s :=
  EncActs.of_extByteEffect s fun e => { e with litLeft := e.L, st := .emitLiteralBytes }

theorem literalByteEffect_of_cons {b : Byte} {bs : List Byte} (lit : s.mem.lit = b :: bs) :
    literalByteEffect s = emit b s.mem.popLit (afterLiteralByte s.enc) s := by
  simp [literalByteEffect, lit]

theorem EncActs.of_literalByteEffect (lit : s.mem.lit ≠ []) : EncActs literalByteEffect s := by
  obtain ⟨b, bs, head⟩ := List.exists_cons_of_ne_nil lit
  refine .of_emit (pop := .lit) lit b (afterLiteralByte s.enc) fun y => ?_
  obtain ⟨bs', head'⟩ := y.apply_lit head
  exact literalByteEffect_of_cons head'

theorem EncActs.of_offsetLowEffect (s : State) : EncActs offsetLowEffect s :=
  .of_emit (pop := .nothing) trivial (offsetLow s.enc.OFF) { s.enc with st := .emitOffsetHigh } fun _ => rfl

theorem EncActs.of_offsetHighEffect (s : State) : EncActs offsetHighEffect s :=
  .of_emit (pop := .nothing) trivial (offsetHigh s.enc.OFF) (afterOffsetHigh s.enc) fun _ => rfl

theorem EncActs.of_matchLenExtEffect (s : State) : EncActs matchLenExtEffect s :=
  EncActs.of_extByteEffect s fun e => { e with st := .readDescriptor }

end encActs

theorem EncStep.eq_apply {s t : State} (h : EncStep s t) : ∃ x : EncMove, t = x.apply s := by
  have nonempty {d : DWord} (head : s.mem.desc.head? = some d) : s.mem.desc ≠ [] := fun e => by simp [e] at head
  cases h with
  | stuck => exact (EncActs.of_id s).eq_apply
  | finish st head => exact (EncActs.of_popDesc (nonempty head) fun e => { e with st := .writeSize }).eq_apply
  | discard st head => exact (EncActs.of_popDesc (nonempty head) fun e => { e with st := .done }).eq_apply
  | latch L ML OFF st head =>
    exact (EncActs.of_popDesc (nonempty head) fun e =>
      { e with L := L, ML := ML, OFF := OFF, st := .emitTokenByte }).eq_apply
  | notSentinel d st head =>
    exact (EncActs.of_popDesc (nonempty head) fun e =>
      { e with st := .fault, fault := some (.emptyNotSentinel d) }).eq_apply
  | emptySize => exact (EncActs.of_emptySizeEffect s).eq_apply
  | emptyTerm => exact (EncActs.of_emptyTermEffect s).eq_apply
  | tokenByte => exact (EncActs.of_tokenByteEffect s).eq_apply
  | litLenExt => exact (EncActs.of_litLenExtEffect s).eq_apply
  | literalByte =>
    by_cases lit : s.mem.lit = []
    · simpa [literalByteEffect, lit] using (EncActs.of_id s).eq_apply
    · exact (EncActs.of_literalByteEffect lit).eq_apply
  | offsetLow => exact (EncActs.of_offsetLowEffect s).eq_apply
  | offsetHigh => exact (EncActs.of_offsetHighEffect s).eq_apply
  | matchLenExt => exact (EncActs.of_matchLenExtEffect s).eq_apply
  | writeSize => exact (EncActs.of_writeSizeEffect s).eq_apply

/-- Settles O47: a turn of a unit is one of its steps, and so a move at its own channel ends. -/
theorem unitsTouchOnlyTheirEnds : Obligations.UnitsTouchOnlyTheirEnds := by
  refine fun s t => ⟨fun h => ?_, fun h => ?_⟩
  · obtain ⟨y, rfl⟩ := (DivStep.of_turn h).eq_apply
    obtain ⟨tok, bs, ds, hTok, hBs, hDs, mem⟩ := y.apply_mem s
    rw [mem]
    exact ⟨rfl, rfl, rfl, rfl, rfl, rfl, rfl, hTok, ⟨bs, rfl, hBs⟩, ⟨ds, rfl, hDs⟩⟩
  · obtain ⟨x, rfl⟩ := (EncStep.of_turn h).eq_apply
    obtain ⟨lit, desc, bs, ns, hLit, hDesc, hBs, hNs, mem⟩ := x.apply_mem s
    rw [mem]
    exact ⟨rfl, rfl, rfl, rfl, rfl, rfl, rfl, hLit, hDesc, ⟨bs, rfl, hBs⟩, ⟨ns, rfl, hNs⟩⟩

/-! ### An enabled turn of DIV (R121 to R129, R266) -/

/-- The word that the decoder reads is the word of the instruction that it gives (R80 to R83, R95). -/
theorem encode_decodeToken (c : Config) (ceiling : Bool) (w : Word) : encode c (decodeToken ceiling w) = .token w := by
  obtain ⟨len, e⟩ | ⟨len, e⟩ | ⟨len, e⟩ | ⟨_, off, e⟩ | ⟨_, _, e⟩ := decodeToken_cases ceiling w <;> rw [e]
  · simp only [encode, ← len, tokenWord_fields]
  · simp only [encode, ← len, tokenWord_fields]
  · have split : (1 : BitVec 7) ++ (rawLen w).extractLsb' 0 1 = rawLen w := by
      obtain len | len := len <;> rw [len] <;> decide
    simp only [encode, split, tokenWord_fields]
  · simp only [encode, ← off, tokenWord_fields]
  · cases ceiling <;> simp [encode]

/-- A step under an enabling condition that holds. -/
theorem fire_of_ready {ready : Bool} {after before : State} (h : ready = true) : fire ready after before = .next after := by
  rw [h, fire_true]

/-- A turn that answers `f`, in `s` and after any move of ENC, makes one and the same move of DIV. -/
theorem DivActs.fires {f : State → State} {turn : State → Host.Outcome State Fault Refusal} {s : State} (h : DivActs f s)
    (ready : ∀ x : EncMove, turn (x.apply s) = .next (f (x.apply s))) :
    ∃ y : DivMove, ∀ x : EncMove, turn (x.apply s) = .next (y.apply (x.apply s)) := by
  obtain ⟨y, same⟩ := h
  exact ⟨y, fun x => (ready x).trans (congrArg _ (same x))⟩

/-- ENC changes nothing that an enabled token instruction rests on. -/
theorem exec_token_move {i : Instr} {s : State} {w : Word} (word : encode s.cfg i = .token w)
    (head : tokenAtHead w s = true) (ready : tokenReady s i = true) :
    ∃ y : DivMove, ∀ x : EncMove, exec i (x.apply s) = .next (y.apply (x.apply s)) := by
  have head' (x : EncMove) : tokenAtHead w (x.apply s) = true := by
    rw [tokenAtHead_iff, x.apply_tok]
    exact (tokenAtHead_iff w s).1 head
  cases i with
  | lit ch off =>
    cases word
    refine (DivActs.of_litEffect s ch).fires fun x => fire_of_ready ?_
    rw [head', x.apply_litRoom ready]
    rfl
  | badLen1 | badLen23 =>
    cases word
    exact (DivActs.of_tokenFault s (.badMatchLength _ s.div.pos)).fires fun x => fire_of_ready (head' x)
  | matchZeroOff =>
    cases word
    exact (DivActs.of_tokenFault s (.zeroOffset _ s.div.pos)).fires fun x => fire_of_ready (head' x)
  | matchTok ch raw off =>
    cases word
    by_cases past : overshoots raw s = true
    · exact (DivActs.of_tokenFault s (.overshoot _ s.div.pos s.div.n)).fires fun x =>
        (if_pos past).trans (fire_of_ready (head' x))
    · simp only [tokenReady, past, Bool.false_or, Bool.and_eq_true] at ready
      refine (DivActs.of_matchEffect s raw off).fires fun x => (if_neg past).trans (fire_of_ready ?_)
      have below : (!atCeiling (x.apply s)) = true := ready.1
      rw [head', below, x.apply_descRoom ready.2]
      rfl
  | matchOvf ch raw off =>
    cases word
    by_cases past : overshoots raw s = true
    · exact (DivActs.of_tokenFault s (.overshoot _ s.div.pos s.div.n)).fires fun x =>
        (if_pos past).trans (fire_of_ready (head' x))
    · simp only [tokenReady, past, Bool.false_or] at ready
      refine (DivActs.of_matchOvfEffect s raw).fires fun x => (if_neg past).trans (fire_of_ready ?_)
      have reached : atCeiling (x.apply s) = true := ready
      rw [head', reached]
      rfl
  | endDesc | litOnly | ovfSent | matchSeq | start => cases ready

/-- An enabled turn of DIV makes the same move before and after any move of ENC. -/
theorem divTurn_move {s : State} (ready : divReady s = true) :
    ∃ y : DivMove, ∀ x : EncMove, divTurn (x.apply s) = .next (y.apply (x.apply s)) := by
  cases st : s.div.st with
  | idle | done | fault => simp [divReady, st] at ready
  | readToken =>
    cases tok : s.mem.tok with
    | nil => simp [divReady, st, tok] at ready
    | cons w ws =>
      simp only [divReady, st, tok] at ready
      have head : tokenAtHead w s = true := (tokenAtHead_iff w s).2 ⟨st, by rw [tok]; rfl⟩
      obtain ⟨y, move⟩ := exec_token_move (encode_decodeToken s.cfg (atCeiling s) w) head ready
      exact ⟨y, fun x => (divTurn_readToken (s := x.apply s) st (x.apply_tok.trans tok)).trans (move x)⟩
  | flush =>
    simp only [divReady, st, flushReady, Bool.or_eq_true] at ready
    refine (DivActs.of_flushEffect s).fires fun x => ?_
    have turn : divTurn (x.apply s) = fire (flushReady (x.apply s)) (flushEffect (x.apply s)) (x.apply s) := by
      rw [divTurn, show (x.apply s).div.st = .flush from st]
    exact turn.trans (fire_of_ready (Bool.or_eq_true_iff.2 (ready.imp id x.apply_descRoom)))
  | emitEnd =>
    simp only [divReady, st] at ready
    refine (DivActs.of_emitEndEffect s).fires fun x => ?_
    have turn : divTurn (x.apply s) = fire (x.apply s).descRoom (emitEndEffect (x.apply s)) (x.apply s) := by
      rw [divTurn, show (x.apply s).div.st = .emitEnd from st]
    exact turn.trans (fire_of_ready (x.apply_descRoom ready))

/-! ### An enabled turn of ENC (R161 to R173, R266) -/

/-- A descriptor other than END runs as its fields (R86). -/
theorem exec_decodeDesc_of_ne {s : State} {d : DWord} (nonzero : d ≠ 0) :
    exec (decodeDesc s.cfg.ovfSentinel d) s = takeDescriptor (descL d) (descML d) (descOFF d) s := by
  obtain ⟨zero, _⟩ | ⟨_, hML, hOFF, e⟩ | ⟨_, _, hML, hOFF, e⟩ | ⟨_, _, e⟩ := decodeDesc_cases s.cfg.ovfSentinel d
  · exact absurd zero nonzero
  · rw [e, hML, hOFF]; rfl
  · rw [e, hML, hOFF]; rfl
  · rw [e]; rfl

theorem decodeDesc_zero (sentinel : Half) : decodeDesc sentinel 0 = .endDesc := if_pos rfl

/-- ENC, in a state that takes a descriptor, runs END or takes the fields of another word (R163, R164). -/
theorem encTurn_descriptor {s : State} {d : DWord} {ds : List DWord}
    (st : s.enc.st = .readDescriptor ∨ s.enc.st = .emptyDiscard) (desc : s.mem.desc = d :: ds) :
    encTurn s = if d = 0 then execEndDesc s else takeDescriptor (descL d) (descML d) (descOFF d) s := by
  have turn : encTurn s = exec (decodeDesc s.cfg.ovfSentinel d) s := encTurn_takesDescriptor st desc
  rw [turn]
  split
  case isTrue zero => rw [zero, decodeDesc_zero]; rfl
  case isFalse nonzero => exact exec_decodeDesc_of_ne nonzero

/-- Which registers ENC writes as it takes the word `d` rests on the state it is in and on `d` alone (R163, R164). -/
theorem encTurn_popDesc {st : EncState} (takes : st = .readDescriptor ∨ st = .emptyDiscard) (d : DWord) :
    ∃ e : Encoder → Encoder, ∀ (s : State) (ds : List DWord), s.enc.st = st → s.mem.desc = d :: ds →
      encTurn s = .next ((s.withMem s.mem.popDesc).withEnc (e s.enc)) := by
  have head (s : State) (ds : List DWord) (desc : s.mem.desc = d :: ds) : descAtHead d s = true :=
    (descAtHead_iff d s).2 (by rw [desc]; rfl)
  by_cases zero : d = 0
  · subst zero
    obtain rfl | rfl := takes
    · refine ⟨fun e => { e with st := .writeSize }, fun s ds st desc => ?_⟩
      rw [encTurn_descriptor (.inl st) desc, if_pos rfl, execEndDesc, st]
      exact fire_of_ready (head s ds desc)
    · refine ⟨fun e => { e with st := .done }, fun s ds st desc => ?_⟩
      rw [encTurn_descriptor (.inr st) desc, if_pos rfl, execEndDesc, st]
      exact fire_of_ready (head s ds desc)
  · obtain rfl | rfl := takes
    · refine ⟨fun e => { e with L := descL d, ML := descML d, OFF := descOFF d, st := .emitTokenByte },
        fun s ds st desc => ?_⟩
      rw [encTurn_descriptor (.inl st) desc, if_neg zero, takeDescriptor, st, pack_fields]
      exact fire_of_ready (head s ds desc)
    · refine ⟨fun e => { e with st := .fault, fault := some (.emptyNotSentinel d) }, fun s ds st desc => ?_⟩
      rw [encTurn_descriptor (.inr st) desc, if_neg zero, takeDescriptor, st, pack_fields]
      exact fire_of_ready (head s ds desc)

/-- A turn that answers `f`, in `s` and after any move of DIV, makes one and the same move of ENC. -/
theorem EncActs.fires {f : State → State} {s : State} (h : EncActs f s)
    (ready : ∀ y : DivMove, encTurn (y.apply s) = .next (f (y.apply s))) :
    ∃ x : EncMove, x.pop.possible s.mem ∧ ∀ y : DivMove, encTurn (y.apply s) = .next (x.apply (y.apply s)) := by
  obtain ⟨x, possible, same⟩ := h
  exact ⟨x, possible, fun y => (ready y).trans (congrArg _ (same y))⟩

/-- The same for a turn that waits for room on OUT. -/
theorem EncActs.fires_outRoom {f : State → State} {s : State} (h : EncActs f s) (room : s.outRoom = true)
    (turn : ∀ t : State, t.enc.st = s.enc.st → encTurn t = fire t.outRoom (f t) t) :
    ∃ x : EncMove, x.pop.possible s.mem ∧ ∀ y : DivMove, encTurn (y.apply s) = .next (x.apply (y.apply s)) :=
  h.fires fun y => (turn (y.apply s) rfl).trans (fire_of_ready (y.apply_outRoom.trans room))

/-- The same for a turn that waits for room on SIZE. -/
theorem EncActs.fires_sizeRoom {f : State → State} {s : State} (h : EncActs f s) (room : s.sizeRoom = true)
    (turn : ∀ t : State, t.enc.st = s.enc.st → encTurn t = fire t.sizeRoom (f t) t) :
    ∃ x : EncMove, x.pop.possible s.mem ∧ ∀ y : DivMove, encTurn (y.apply s) = .next (x.apply (y.apply s)) :=
  h.fires fun y => (turn (y.apply s) rfl).trans (fire_of_ready (y.apply_sizeRoom.trans room))

/-- An enabled turn of ENC makes the same move before and after any move of DIV. -/
theorem encTurn_move {s : State} (ready : encReady s = true) :
    ∃ x : EncMove, x.pop.possible s.mem ∧ ∀ y : DivMove, encTurn (y.apply s) = .next (x.apply (y.apply s)) := by
  cases st : s.enc.st <;> simp only [encReady, st, Bool.and_eq_true, Bool.not_eq_true', List.isEmpty_eq_false_iff] at ready
  case idle | done | fault => cases ready
  case readDescriptor | emptyDiscard =>
    obtain ⟨d, ds, desc⟩ := List.exists_cons_of_ne_nil ready
    obtain ⟨e, takes⟩ := encTurn_popDesc (st := s.enc.st) (by simp [st]) d
    refine (EncActs.of_popDesc ready e).fires fun y => ?_
    obtain ⟨ds', desc'⟩ := y.apply_desc desc
    exact takes (y.apply s) ds' rfl desc'
  case emptySize =>
    exact (EncActs.of_emptySizeEffect s).fires_sizeRoom ready fun t e => by simp only [encTurn, e.trans st]
  case emptyTerm =>
    exact (EncActs.of_emptyTermEffect s).fires_outRoom ready fun t e => by simp only [encTurn, e.trans st]
  case emitTokenByte =>
    exact (EncActs.of_tokenByteEffect s).fires_outRoom ready fun t e => by simp only [encTurn, e.trans st]
  case emitLitLenExt =>
    exact (EncActs.of_litLenExtEffect s).fires_outRoom ready fun t e => by simp only [encTurn, e.trans st]
  case emitLiteralBytes =>
    exact (EncActs.of_literalByteEffect ready.1).fires_outRoom ready.2 fun t e => by simp only [encTurn, e.trans st]
  case emitOffsetLow =>
    exact (EncActs.of_offsetLowEffect s).fires_outRoom ready fun t e => by simp only [encTurn, e.trans st]
  case emitOffsetHigh =>
    exact (EncActs.of_offsetHighEffect s).fires_outRoom ready fun t e => by simp only [encTurn, e.trans st]
  case emitMatchLenExt =>
    exact (EncActs.of_matchLenExtEffect s).fires_outRoom ready fun t e => by simp only [encTurn, e.trans st]
  case writeSize =>
    exact (EncActs.of_writeSizeEffect s).fires_sizeRoom ready fun t e => by simp only [encTurn, e.trans st]

/-- Settles O58: each unit's move is the same before and after the other's, and the two moves commute. -/
theorem unitsCommute : Obligations.UnitsCommute := by
  intro s divEnabled encEnabled
  obtain ⟨y, divMoves⟩ := divTurn_move divEnabled
  obtain ⟨x, possible, encMoves⟩ := encTurn_move encEnabled
  refine ⟨y.apply s, x.apply s, y.apply (x.apply s), ?_, ?_, ?_, divMoves x⟩
  · exact divMoves ⟨s.enc, .nothing, .nothing⟩
  · exact encMoves ⟨s.div, s.ovfFlag, .nothing, .nothing⟩
  · rw [encMoves y, x.apply_divMove possible]

end Sys2Proof.Machine
end

section
/-! PROOFS, the statements of 30_encoding.md on words. A word is written and read back by its fields (R80, R85), and the decoder's
class of a word is read off the fields' numbers (R95, R86). -/

namespace Sys2Proof

/-! ### The decoder on the fields of a token (R81 to R83, R95) -/

section token
variable (ceiling : Bool) (ch : Byte)

theorem decodeToken_lit (off : Half) : decodeToken ceiling (tokenWord ch 0 off) = .lit ch off := by simp [decodeToken]

theorem decodeToken_badLen1 (off : Half) : decodeToken ceiling (tokenWord ch 1 off) = .badLen1 ch off := by simp [decodeToken]

/-- The two lengths of BADLEN_2_3 differ in the table's any-bit. -/
theorem decodeToken_badLen23 (x : BitVec 1) (off : Half) :
    decodeToken ceiling (tokenWord ch ((1 : BitVec 7) ++ x) off) = .badLen23 x ch off := by
  obtain rfl | rfl : x = 0 ∨ x = 1 := by decide +revert
  · simp [decodeToken]
  · simp [decodeToken]

/-- A match's length is no literal's and not reserved (R82, R83). -/
theorem not_reserved_of_rawLenOk {raw : Byte} (long : rawLenOk raw = true) :
    raw ≠ 0 ∧ raw ≠ 1 ∧ ¬ (raw = 2 ∨ raw = 3) := by
  refine ⟨?_, ?_, ?_⟩
  · rintro rfl; cases long
  · rintro rfl; cases long
  · rintro (rfl | rfl) <;> cases long

theorem decodeToken_matchZeroOff {raw : Byte} (long : rawLenOk raw = true) :
    decodeToken ceiling (tokenWord ch raw 0) = .matchZeroOff ch raw := by
  obtain ⟨notLit, notOne, notTwo⟩ := not_reserved_of_rawLenOk long
  simp only [decodeToken, rawLen_tokenWord, litChar_tokenWord, tokOffset_tokenWord, if_neg notLit, if_neg notOne,
    if_neg notTwo, if_pos]

theorem decodeToken_match {raw : Byte} {off : Half} (long : rawLenOk raw = true) (near : off ≠ 0) :
    decodeToken ceiling (tokenWord ch raw off) = if ceiling then .matchOvf ch raw off else .matchTok ch raw off := by
  obtain ⟨notLit, notOne, notTwo⟩ := not_reserved_of_rawLenOk long
  simp only [decodeToken, rawLen_tokenWord, litChar_tokenWord, tokOffset_tokenWord, if_neg notLit, if_neg notOne,
    if_neg notTwo, if_neg near]

end token

/-! ### The decoder on the fields of a descriptor (R86) -/

section descriptor
variable {sentinel ML OFF : Half} {L : Word}

theorem decodeDesc_litOnly (run : L ≠ 0) : decodeDesc sentinel (pack L 0 0) = .litOnly L := by
  simp only [decodeDesc, pack_eq_zero, run, descL_pack, descML_pack, descOFF_pack, false_and, and_self, if_true, if_false]

theorem decodeDesc_ovfSent (nonzero : sentinel ≠ 0) :
    decodeDesc sentinel (pack L sentinel sentinel) = .ovfSent L := by
  simp only [decodeDesc, pack_eq_zero, nonzero, descL_pack, descML_pack, descOFF_pack, and_self, and_false, if_true,
    if_false]

theorem decodeDesc_matchSeq (ok : matchSeqOk sentinel ML OFF = true) :
    decodeDesc sentinel (pack L ML OFF) = .matchSeq L ML OFF := by
  simp only [matchSeqOk, Bool.and_eq_true, decide_eq_true_eq] at ok
  obtain ⟨notZero, notSentinel⟩ := ok
  simp only [decodeDesc, pack_eq_zero, notZero, notSentinel, descL_pack, descML_pack, descOFF_pack, and_false, if_false]

end descriptor

/-- Settles O1: by row, from the decoder's answer on the row's fields. -/
theorem decodeInvertsEncode : Obligations.DecodeInvertsEncode := by
  intro c ceiling i wf below reached
  cases i with
  | lit ch off => exact decodeToken_lit ceiling ch off
  | badLen1 ch off => exact decodeToken_badLen1 ceiling ch off
  | badLen23 x ch off => exact decodeToken_badLen23 ceiling ch x off
  | matchZeroOff ch raw => exact decodeToken_matchZeroOff ceiling ch wf
  | matchTok ch raw off =>
    simp only [Instr.wf, offsetOk, Bool.and_eq_true, decide_eq_true_eq] at wf
    rw [below ch raw off rfl]
    exact decodeToken_match false ch wf.1 wf.2
  | matchOvf ch raw off =>
    simp only [Instr.wf, offsetOk, Bool.and_eq_true, decide_eq_true_eq] at wf
    rw [reached ch raw off rfl]
    exact decodeToken_match true ch wf.1 wf.2
  | endDesc => exact Machine.decodeDesc_zero c.ovfSentinel
  | litOnly L => exact decodeDesc_litOnly (of_decide_eq_true wf)
  | ovfSent L => exact decodeDesc_ovfSent (of_decide_eq_true wf)
  | matchSeq L ML OFF => exact decodeDesc_matchSeq wf
  | start n => rfl

/-- A descriptor from its literal run and what its match fields are known to be. -/
theorem pack_descL {d : DWord} {ML OFF : Half} (hML : descML d = ML) (hOFF : descOFF d = OFF) : pack (descL d) ML OFF = d := by
  rw [← hML, ← hOFF, pack_fields]

/-- The descriptor that the decoder reads is the word of the instruction that it gives (R85, R86). -/
theorem encode_decodeDesc (c : Config) (d : DWord) : encode c (decodeDesc c.ovfSentinel d) = .desc d := by
  obtain ⟨zero, e⟩ | ⟨_, hML, hOFF, e⟩ | ⟨_, _, hML, hOFF, e⟩ | ⟨_, _, e⟩ :=
    Machine.decodeDesc_cases c.ovfSentinel d <;> rw [e]
  · rw [zero]; rfl
  · exact congrArg _ (pack_descL hML hOFF)
  · exact congrArg _ (pack_descL hML hOFF)
  · exact congrArg _ (pack_fields d)

/-- Settles O2: by the word's source. -/
theorem encodeInvertsDecode : Obligations.EncodeInvertsDecode := by
  intro c ceiling w
  cases w with
  | token w => exact Machine.encode_decodeToken c ceiling w
  | desc d => exact encode_decodeDesc c d
  | command n => rfl

/-! ### The fields as numbers (R80, R85) -/

/-- A token is its three fields, each by its number. -/
theorem tokenWord_ofNat (w : Word) :
    tokenWord (BitVec.ofNat 8 (w.toNat % 256)) (BitVec.ofNat 8 (w.toNat / 256 % 256)) (BitVec.ofNat 16 (w.toNat / 65536)) =
      w := by
  refine token_ext ?_ ?_ ?_ <;> apply BitVec.eq_of_toNat_eq
  · rw [litChar_tokenWord]; simp [litChar]
  · rw [rawLen_tokenWord]; simp [rawLen, Nat.shiftRight_eq_div_pow]
  · rw [tokOffset_tokenWord]; simp [tokOffset, Nat.shiftRight_eq_div_pow]

/-- Settles O3: a token is the word of its fields' numbers, and the row is read off the fields. -/
theorem tokenClassesByNumber : Obligations.TokenClassesByNumber := by
  intro ceiling w ch raw off
  have word : tokenWord ch (BitVec.ofNat 8 raw) (BitVec.ofNat 16 off) = w := tokenWord_ofNat w
  have rawBound : raw < 256 := Nat.mod_lt _ (by decide)
  have offBound : off < 65536 := by have := w.isLt; omega
  clear_value raw off ch
  subst word
  have long (four : 4 ≤ raw) : rawLenOk (BitVec.ofNat 8 raw) = true := by
    simp [rawLenOk, minMatch, Nat.mod_eq_of_lt rawBound, four]
  refine ⟨?_, ?_, ?_, ?_, fun four zero => ?_, fun four one => ?_⟩
  · rintro rfl; exact decodeToken_lit ceiling ch _
  · rintro rfl; exact decodeToken_badLen1 ceiling ch _
  · rintro rfl; exact decodeToken_badLen23 ceiling ch 0 _
  · rintro rfl; exact decodeToken_badLen23 ceiling ch 1 _
  · subst zero; exact decodeToken_matchZeroOff ceiling ch (long four)
  · refine decodeToken_match ceiling ch (long four) fun zero => ?_
    have := congrArg BitVec.toNat zero
    simp [Nat.mod_eq_of_lt offBound] at this
    omega

theorem toNat_descL (d : DWord) : (descL d).toNat = d.toNat / 2 ^ 32 := by
  have := d.isLt
  simp [descL, Nat.shiftRight_eq_div_pow]
  omega

theorem toNat_descOFF (d : DWord) : (descOFF d).toNat = d.toNat / 2 ^ 16 % 2 ^ 16 := by
  simp [descOFF, Nat.shiftRight_eq_div_pow]

theorem toNat_descML (d : DWord) : (descML d).toNat = d.toNat % 2 ^ 16 := by simp [descML]

/-- END by the fields (R86, R164). -/
theorem desc_eq_zero_iff (d : DWord) : d = 0 ↔ descL d = 0 ∧ descML d = 0 ∧ descOFF d = 0 := by
  rw [← pack_eq_zero, pack_fields]

/-- Settles O4: a test on a field is the test on its number. -/
theorem descriptorClassesByNumber : Obligations.DescriptorClassesByNumber := by
  intro sentinel d L OFF ML
  have hL : L = (descL d).toNat := (toNat_descL d).symm
  have hOFF : OFF = (descOFF d).toNat := (toNat_descOFF d).symm
  have hML : ML = (descML d).toNat := (toNat_descML d).symm
  clear_value L OFF ML
  subst hL hOFF hML
  have zero {n : Nat} (x : BitVec n) : x.toNat = 0 ↔ x = 0 := BitVec.toNat_eq (x := x) (y := 0) |>.symm
  simp only [zero, ← BitVec.toNat_eq, BitVec.ofNat_toNat, BitVec.setWidth_eq, ← desc_eq_zero_iff]
  rfl

/-- Settles O5: bit by bit, by field. -/
theorem descriptorPacking : Obligations.DescriptorPacking := by
  intro L ML OFF
  refine ⟨?_, descL_pack L ML OFF, descOFF_pack L ML OFF, descML_pack L ML OFF⟩
  apply BitVec.eq_of_getLsbD_eq
  intro i hi
  rw [getLsbD_pack]
  by_cases h16 : i < 16
  · simp [hi, h16, show i < 32 by omega]
  by_cases h32 : i < 32
  · simp [hi, h16, h32, BitVec.getLsbD_of_ge ML i (by omega)]
  · simp [hi, h16, h32, BitVec.getLsbD_of_ge ML i (by omega), BitVec.getLsbD_of_ge OFF (i - 16) (by omega)]

/-- Settles O6: each of the ten words is decoded. -/
theorem wordsOfTheVectors : Obligations.WordsOfTheVectors := by
  unfold Obligations.WordsOfTheVectors
  decide

end Sys2Proof
end

section
/-! PROOFS, the statements of 30_encoding.md on records. The token byte's two codes (R87), the length extension code and its
reader (R88, R92), and R92's walk over one record. -/

namespace Sys2Proof.Machine

/-- A 4-bit length code as a number (R87). -/
theorem toNat_nibble (v : Nat) : (nibble v).toNat = min v 15 := by
  simp [nibble, nibbleMax]

/-- Settles O7: the literal code is the byte's high half. -/
theorem tokenByteCodes : Obligations.TokenByteCodes := by
  intro L ML
  have low : (nibble ML.toNat).toNat < 2 ^ 4 := BitVec.isLt _
  rw [tokenByte, BitVec.toNat_append, ← Nat.shiftLeft_add_eq_or_of_lt low, toNat_nibble, toNat_nibble,
    Nat.shiftLeft_eq, Nat.mul_comm]

/-! ### The length extension code (R88) -/

theorem lenExt_of_lt {v : Nat} (final : v < extUnit) : lenExt v = [BitVec.ofNat 8 v] := by
  simp [lenExt, Nat.div_eq_of_lt final, Nat.mod_eq_of_lt final]

theorem lenExt_of_le {v : Nat} (more : extUnit ≤ v) : lenExt v = BitVec.ofNat 8 extUnit :: lenExt (v - extUnit) := by
  have unit : 0 < extUnit := by decide
  rw [lenExt, Nat.div_eq_sub_div unit more, Nat.mod_eq_sub_mod more, List.replicate_succ]
  rfl

/-- Settles O8: the continuation bytes are a replicated list, and the final byte follows it. -/
theorem lengthEscapeLaw : Obligations.LengthEscapeLaw := by
  refine fun x => ⟨fun short => if_neg (Nat.not_le.2 short), fun long => ?_⟩
  have bytes : ext x = List.replicate ((x - 15) / 255) 255 ++ [BitVec.ofNat 8 ((x - 15) % 255)] := if_pos long
  refine ⟨by simp [bytes], fun k hk => ?_, BitVec.ofNat 8 ((x - 15) % 255), by simp [bytes], ?_⟩
  · rw [bytes, List.getElem?_append_left (by simpa using hk), List.getElem?_replicate, if_pos hk]
  · exact Nat.mod_eq_of_lt (by omega)

/-- R92 step 1 undoes R88. -/
theorem readExt_lenExt (v : Nat) (rest : List Byte) : readExt (lenExt v ++ rest) = some (v, rest) := by
  induction v using Nat.strongRecOn with
  | ind v ih =>
    by_cases final : v < extUnit
    · have byte : (BitVec.ofNat 8 v).toNat = v := Nat.mod_eq_of_lt (final.trans (by decide))
      rw [lenExt_of_lt final]
      simp only [List.singleton_append, readExt, byte, if_pos final]
    · have more : extUnit ≤ v := Nat.not_lt.1 final
      have stop : ¬ (BitVec.ofNat 8 extUnit).toNat < extUnit := by decide
      rw [lenExt_of_le more]
      simp only [List.cons_append, readExt, if_neg stop, ih (v - extUnit) (Nat.sub_lt_self (by decide) more),
        Nat.add_sub_cancel' more]

/-- R92 steps 1 and 4 undo a length's code with its extension bytes. -/
theorem readLength_ext (x : Nat) (rest : List Byte) : readLength (min x 15) (ext x ++ rest) = some (x, rest) := by
  by_cases long : nibbleMax ≤ x
  · have code : ¬ min x 15 < nibbleMax := by simpa [nibbleMax] using long
    simp only [readLength, if_neg code, ext, if_pos long, readExt_lenExt, Nat.add_sub_cancel' long]
  · have short : x < nibbleMax := Nat.not_le.1 long
    have same : min x 15 = x := Nat.min_eq_left short.le
    simp only [readLength, same, if_pos short, ext, if_neg long, List.nil_append]

/-! ### The reader's walk (R92) -/

/-- The offset's two bytes as a number (R62). -/
theorem offset_bytes (OFF : Half) : (offsetLow OFF).toNat + 256 * (offsetHigh OFF).toNat = OFF.toNat := by
  have := OFF.isLt
  simp [offsetLow, offsetHigh, Nat.shiftRight_eq_div_pow]
  omega

theorem isLiteralOnly_iff (ML OFF : Half) : isLiteralOnly ML OFF = true ↔ ML = 0 ∧ OFF = 0 := decide_eq_true_iff

/-- R92 steps 3 and 4 on a record's match part: nothing of a literal-only record may follow it. -/
theorem readMatchPart_matchPart (ML OFF : Half) (lits rest : List Byte) (last : ML = 0 ∧ OFF = 0 → rest = []) :
    readMatchPart (min ML.toNat 15) lits (matchPart ML OFF ++ rest) =
      some (⟨lits, if ML = 0 ∧ OFF = 0 then none else some (ML.toNat, OFF.toNat)⟩, rest) := by
  by_cases only : ML = 0 ∧ OFF = 0
  · simp only [matchPart, (isLiteralOnly_iff ML OFF).2 only, last only, if_pos only]
    rfl
  · have part : isLiteralOnly ML OFF = false := decide_eq_false only
    simp only [matchPart, part, if_neg only, Bool.false_eq_true, if_false, List.cons_append, List.nil_append, readMatchPart,
      readLength_ext, offset_bytes]

/-- A record's length (R92). -/
theorem length_record (L : Word) (ML OFF : Half) {lits : List Byte} (count : lits.length = L.toNat) :
    (record L ML OFF lits).length = recordLength L ML OFF := by
  cases only : isLiteralOnly ML OFF <;> simp [record, recordLength, matchPart, only, count] <;> omega

/-- Settles O9: the walk reads the literal length, that many bytes, then the match part. -/
theorem readerRecoversRecord : Obligations.ReaderRecoversRecord := by
  intro L ML OFF lits rest count last
  refine ⟨length_record L ML OFF count, ?_⟩
  have codes := tokenByteCodes L ML
  have litCode : (tokenByte L ML).toNat / 16 = min L.toNat 15 := by omega
  have matchCode : (tokenByte L ML).toNat % 16 = min ML.toNat 15 := by omega
  have enough : ¬ (lits ++ (matchPart ML OFF ++ rest)).length < L.toNat := by simp [count]
  rw [← count] at litCode enough
  simp only [record, ← count, List.append_assoc, List.cons_append, List.nil_append, readRecord, litCode, matchCode,
    readLength_ext, if_neg enough, List.take_left, List.drop_left, readMatchPart_matchPart ML OFF lits rest last]

end Sys2Proof.Machine
end

section
/-! PROOFS, the statements of 30_encoding.md on the reserved tokens and the descriptor rows: exec of a word of either kind pops
it, and what it writes beside (R124, R163, R164). -/

namespace Sys2Proof.Machine

section head
variable {s : State}

/-- A guarded token fault, the token at the head of TOK and DIV reading: it is popped and the fault recorded (R124, R262). -/
theorem fire_tokenFault {w : Word} {rest : List Word} (st : s.div.st = .readToken) (tok : s.mem.tok = w :: rest)
    (f : ModelFault) :
    fire (tokenAtHead w s) (tokenFault f s) s = .next { s with
      mem := { s.mem with tok := rest }
      div := { s.div with st := .fault, fault := some f } } := by
  have head : tokenAtHead w s = true := (tokenAtHead_iff w s).2 ⟨st, by rw [tok]; rfl⟩
  rw [head, fire_true, show rest = s.mem.tok.tail by rw [tok]; rfl]
  rfl

/-- A guarded step that pops the descriptor at the head of DESC and leaves ENC's registers `e`. -/
theorem fire_popDesc {d : DWord} {rest : List DWord} (desc : s.mem.desc = d :: rest) (e : Encoder) :
    fire (descAtHead d s) ((s.withMem s.mem.popDesc).withEnc e) s = .next { s with
      mem := { s.mem with desc := rest }
      enc := e } := by
  have head : descAtHead d s = true := (descAtHead_iff d s).2 (by rw [desc]; rfl)
  rw [head, fire_true, show rest = s.mem.desc.tail by rw [desc]; rfl]
  rfl

/-- END in a block (R164). -/
theorem execEndDesc_of_readDescriptor {rest : List DWord} (st : s.enc.st = .readDescriptor) (desc : s.mem.desc = 0 :: rest) :
    execEndDesc s = .next { s with mem := { s.mem with desc := rest }, enc := { s.enc with st := .writeSize } } := by
  rw [execEndDesc, st]
  exact fire_popDesc desc _

/-- END of an empty block (R163). -/
theorem execEndDesc_of_emptyDiscard {rest : List DWord} (st : s.enc.st = .emptyDiscard) (desc : s.mem.desc = 0 :: rest) :
    execEndDesc s = .next { s with mem := { s.mem with desc := rest }, enc := { s.enc with st := .done } } := by
  rw [execEndDesc, st]
  exact fire_popDesc desc _

variable {L : Word} {ML OFF : Half} {rest : List DWord}

/-- A descriptor's fields are latched in a block (R164). -/
theorem takeDescriptor_of_readDescriptor (st : s.enc.st = .readDescriptor) (desc : s.mem.desc = pack L ML OFF :: rest) :
    takeDescriptor L ML OFF s = .next { s with
      mem := { s.mem with desc := rest }
      enc := { s.enc with L := L, ML := ML, OFF := OFF, st := .emitTokenByte } } := by
  rw [takeDescriptor, st]
  exact fire_popDesc desc _

/-- A descriptor faults ENC where an empty block's END was expected (R163). -/
theorem takeDescriptor_of_emptyDiscard (st : s.enc.st = .emptyDiscard) (desc : s.mem.desc = pack L ML OFF :: rest) :
    takeDescriptor L ML OFF s = .next { s with
      mem := { s.mem with desc := rest }
      enc := { s.enc with st := .fault, fault := some (.emptyNotSentinel (pack L ML OFF)) } } := by
  rw [takeDescriptor, st]
  exact fire_popDesc desc _

end head

/-- Settles O13: every reserved row is the guarded fault of its word. -/
theorem reservedTokensFault : Obligations.ReservedTokensFault := by
  intro s ch off rest st
  exact ⟨fun tok => fire_tokenFault st tok _, fun tok => fire_tokenFault st tok _, fun tok => fire_tokenFault st tok _,
    fun raw _ tok => fire_tokenFault st tok _⟩

/-- Settles O20: END by the state it is met in; the three other rows take their word's fields. -/
theorem descriptorInstructionSteps : Obligations.DescriptorInstructionSteps := by
  refine fun s rest L ML OFF => ⟨execEndDesc_of_readDescriptor, execEndDesc_of_emptyDiscard, fun i row _ desc => ?_⟩
  have takes : exec i s = takeDescriptor L ML OFF s := by
    obtain ⟨rfl, rfl, rfl⟩ | ⟨rfl, rfl, rfl⟩ | rfl := row <;> rfl
  rw [takes]
  exact ⟨fun st => takeDescriptor_of_readDescriptor st desc, fun st => takeDescriptor_of_emptyDiscard st desc⟩

end Sys2Proof.Machine
end

section
/-! PROOFS, the statement of 30_encoding.md on a block's output. ENC writes a record one byte per turn (R165 to R171): the phases
are put together backwards, each from what the rest emits, and one induction over the turns gives the run of ENC and its frame.
The induction over the block's descriptors then adds the records up (R91, R175, R301). -/

namespace Sys2Proof.Machine

open Sys2Proof.Safety

/-! ### Turns that emit one byte each -/

/-- `s` after ENC has pushed `bytes`, with `desc` and `lit` left on DESC and LIT and the registers `e`. -/
def State.emitted (desc : List DWord) (lit bytes : List Byte) (e : Encoder) (s : State) : State :=
  { s with mem := { s.mem with desc := desc, lit := lit, out := s.mem.out ++ bytes }, enc := e }

theorem State.emitted_emitted (desc desc' : List DWord) (lit lit' bytes bytes' : List Byte) (e e' : Encoder) (s : State) :
    (s.emitted desc lit bytes e).emitted desc' lit' bytes' e' = s.emitted desc' lit' (bytes ++ bytes') e' := by
  simp [State.emitted]

/-- One byte, counted in `enc.size` (R165). -/
def State.wrote (b : Byte) (lit : List Byte) (e : Encoder) (s : State) : State :=
  s.emitted s.mem.desc lit [b] { e with size := s.enc.size + 1 }

/-- From the state ENC emits these bytes in as many turns, waiting only for room on OUT, then `Q` holds; before the last byte
it takes no descriptor. -/
inductive Emits (Q : State → Prop) : List Byte → State → Prop
  | done {s : State} (holds : Q s) : Emits Q [] s
  | byte {s : State} {b : Byte} {bs lit : List Byte} {e : Encoder} (inside : s.enc.st ≠ .readDescriptor)
      (turn : encTurn s = fire s.outRoom (emit b { s.mem with lit := lit } e s) s) (rest : Emits Q bs (s.wrote b lit e)) :
      Emits Q (b :: bs) s

/-- There is room for `k` more bytes on OUT, and `enc.size` can count them (R61, R181). -/
def HasRoom (k : Nat) (s : State) : Prop :=
  s.mem.out.length + k ≤ s.cfg.outDepth ∧ s.enc.size.toNat + k < 2 ^ 32

theorem HasRoom.mono {j k : Nat} {s : State} (room : HasRoom k s) (le : j ≤ k) : HasRoom j s :=
  ⟨(Nat.add_le_add_left le _).trans room.1, (Nat.add_le_add_left le _).trans_lt room.2⟩

/-- The size after one byte, with room for it. -/
theorem toNat_size_succ {k : Nat} {s : State} (room : HasRoom (k + 1) s) :
    (s.enc.size + 1).toNat = s.enc.size.toNat + 1 := by
  have := room.2
  exact BitVec.toNat_add_of_lt (by simp; omega)

/-- Room for more bytes is left after the first of them. -/
theorem HasRoom.emitted {k : Nat} {s : State} {bytes : List Byte} {e : Encoder} (room : HasRoom (bytes.length + k) s)
    (count : e.size.toNat = s.enc.size.toNat + bytes.length) (desc : List DWord) (lit : List Byte) :
    HasRoom k (s.emitted desc lit bytes e) := by
  obtain ⟨outRoom, sizeRoom⟩ := room
  refine ⟨by simpa [State.emitted, Nat.add_assoc] using outRoom, ?_⟩
  simp only [State.emitted]
  omega

theorem HasRoom.wrote {k : Nat} {s : State} (room : HasRoom (k + 1) s) (b : Byte) (lit : List Byte) (e : Encoder) :
    HasRoom k (s.wrote b lit e) :=
  HasRoom.emitted (bytes := [b]) (Nat.add_comm k 1 ▸ room) (toNat_size_succ room) s.mem.desc lit

/-- With room, the turn that emits a byte emits it. -/
theorem act_enc_of_room {k : Nat} {s : State} {b : Byte} {lit : List Byte} {e : Encoder} (room : HasRoom (k + 1) s)
    (turn : encTurn s = fire s.outRoom (emit b { s.mem with lit := lit } e s) s) : act .enc s = .next (s.wrote b lit e) := by
  obtain ⟨outRoom, sizeRoom⟩ := room
  have ready : s.outRoom = true := (State.outRoom_iff s).2 (by omega)
  have count : s.enc.size ≠ BitVec.allOnes 32 := fun full => by
    have top : s.enc.size.toNat = 2 ^ 32 - 1 := by rw [full]; rfl
    omega
  rw [act, turn, ready, fire_true, emit_of_ne count]
  rfl

theorem runAgent_succ {a : Agent} {k : Nat} {s t : State} (turn : act a s = .next t) :
    runAgent a (k + 1) s = runAgent a k t := by
  simp only [runAgent, turn]

/-- Turns add up. -/
theorem runAgent_add {a : Agent} {j k : Nat} {s t : State} (first : runAgent a j s = .next t) :
    runAgent a (j + k) s = runAgent a k t := by
  induction j generalizing s with
  | zero => cases first; rw [Nat.zero_add]
  | succ j ih =>
    rw [Nat.succ_add]
    cases turn : act a s with
    | next u =>
      rw [runAgent_succ turn] at first ⊢
      exact ih first
    | fault | refused => simp only [runAgent, turn] at first; cases first

section emits
variable {Q : State → Prop} {bytes : List Byte} {s : State}

/-- With room for the bytes, ENC's turns push exactly them and count them, and nothing else of the lane changes but its own
registers and LIT. -/
theorem Emits.run (h : Emits Q bytes s) (room : HasRoom bytes.length s) :
    ∃ lit e, runAgent .enc bytes.length s = .next (s.emitted s.mem.desc lit bytes e) ∧
      Q (s.emitted s.mem.desc lit bytes e) ∧ e.size.toNat = s.enc.size.toNat + bytes.length := by
  induction h with
  | @done s holds =>
    have same : s.emitted s.mem.desc s.mem.lit [] s.enc = s := by simp [State.emitted]
    exact ⟨s.mem.lit, s.enc, by rw [same]; rfl, by rwa [same], rfl⟩
  | @byte s b bs lit e inside turn rest ih =>
    obtain ⟨lit', e', run, holds, count⟩ := ih (room.wrote b lit e)
    have same : (s.wrote b lit e).emitted s.mem.desc lit' bs e' = s.emitted s.mem.desc lit' (b :: bs) e' := State.emitted_emitted ..
    refine ⟨lit', e', (runAgent_succ (act_enc_of_room room turn)).trans (run.trans (congrArg _ same)), same ▸ holds, ?_⟩
    have : (s.wrote b lit e).enc.size.toNat = s.enc.size.toNat + 1 := toNat_size_succ room
    rw [count, this, List.length_cons, Nat.add_right_comm, Nat.add_assoc]

/-- R174: ENC takes no further descriptor before the last byte of a record. -/
theorem Emits.inside_until (h : Emits Q bytes s) (room : HasRoom bytes.length s) {k : Nat} (before : k < bytes.length) :
    ∃ u, runAgent .enc k s = .next u ∧ u.enc.st ≠ .readDescriptor := by
  induction h generalizing k with
  | done => cases before
  | @byte s b bs lit e inside turn rest ih =>
    cases k with
    | zero => exact ⟨s, rfl, inside⟩
    | succ k =>
      rw [runAgent_succ (act_enc_of_room room turn)]
      exact ih (room.wrote b lit e) (Nat.lt_of_succ_lt_succ before)

end emits

/-! ### The phases of a record (R165 to R171) -/

/-- ENC in one of its states, its latched descriptor, and what is on LIT. -/
structure EncAt (st : EncState) (L : Word) (ML OFF : Half) (lit : List Byte) (s : State) : Prop where
  st : s.enc.st = st
  L : s.enc.L = L
  ML : s.enc.ML = ML
  OFF : s.enc.OFF = OFF
  lit : s.mem.lit = lit

section phases
variable {Q : State → Prop} {bs lit : List Byte} {L : Word} {ML OFF : Half} {s : State}

/-- The extension bytes of a remainder (R88), in the state of R167 or R171, whose final byte leaves the registers `last`. -/
theorem Emits.of_extByte {st : EncState} {last : Encoder → Encoder} (inside : st ≠ .readDescriptor)
    (turn : ∀ u : State, u.enc.st = st → encTurn u = fire u.outRoom (extByteEffect (last u.enc) u) u)
    (rest : ∀ u b, EncAt st L ML OFF lit u → Emits Q bs (u.wrote b lit (last u.enc)))
    (h : EncAt st L ML OFF lit s) {v : Nat} (rem : s.enc.rem.toNat = v) : Emits Q (lenExt v ++ bs) s := by
  induction v using Nat.strongRecOn generalizing s with
  | ind v ih =>
    have inside' : s.enc.st ≠ .readDescriptor := h.st ▸ inside
    have mem : s.mem = { s.mem with lit := lit } := by rw [← h.lit]
    by_cases final : v < extUnit
    · have byte : s.enc.rem.setWidth 8 = BitVec.ofNat 8 v := by rw [← rem, BitVec.ofNat_toNat]
      have step : extByteEffect (last s.enc) s = emit (BitVec.ofNat 8 v) { s.mem with lit := lit } (last s.enc) s := by
        rw [extByteEffect, if_neg (by omega), byte, ← mem]
      rw [lenExt_of_lt final]
      exact .byte inside' (step ▸ turn s h.st) (rest s _ h)
    · have more : extUnit ≤ v := Nat.not_lt.1 final
      have step : extByteEffect (last s.enc) s =
          emit (BitVec.ofNat 8 extUnit) { s.mem with lit := lit }
            { s.enc with rem := s.enc.rem - BitVec.ofNat 32 extUnit } s := by
        rw [extByteEffect, if_pos (by omega), ← mem]
      rw [lenExt_of_le more]
      refine .byte inside' (step ▸ turn s h.st) (ih (v - extUnit) (Nat.sub_lt_self (by decide) more) ?_ ?_)
      · exact ⟨h.st, h.L, h.ML, h.OFF, rfl⟩
      · rw [← rem]
        exact toNat_sub_extUnit (rem ▸ more)

/-- The record is complete: ENC takes the next descriptor (R171). -/
def RecordDone (lit : List Byte) (s : State) : Prop := s.enc.st = .readDescriptor ∧ s.mem.lit = lit

/-- EMIT_MATCH_LEN_EXT (R171). -/
theorem Emits.of_matchLenExt {v : Nat} (h : EncAt .emitMatchLenExt L ML OFF lit s) (rem : s.enc.rem.toNat = v) :
    Emits (RecordDone lit) (lenExt v) s := by
  have all := Emits.of_extByte (Q := RecordDone lit) (bs := []) (last := fun e => { e with st := .readDescriptor })
    (by decide) (fun u st => by simp only [encTurn, st]; rfl) (fun u b _ => .done ⟨rfl, rfl⟩) h rem
  rwa [List.append_nil] at all

/-- EMIT_OFFSET_HIGH (R170). -/
theorem Emits.of_offsetHigh (h : EncAt .emitOffsetHigh L ML OFF lit s) :
    Emits (RecordDone lit) (offsetHigh OFF :: ext ML.toNat) s := by
  obtain ⟨st, rfl, rfl, rfl, rfl⟩ := h
  refine .byte (lit := s.mem.lit) (e := afterOffsetHigh s.enc) (by simp [st]) (by simp only [encTurn, st]; rfl) ?_
  by_cases long : nibbleMax ≤ s.enc.ML.toNat
  · have rem : (s.enc.ML.setWidth 32 - BitVec.ofNat 32 nibbleMax).toNat = s.enc.ML.toNat - nibbleMax := by
      have wide : (s.enc.ML.setWidth 32).toNat = s.enc.ML.toNat := BitVec.toNat_setWidth_of_le (by decide)
      rw [BitVec.toNat_sub_of_le (long.trans_eq wide.symm), wide]
      rfl
    rw [ext, if_pos long, afterOffsetHigh, if_pos long]
    exact .of_matchLenExt ⟨rfl, rfl, rfl, rfl, rfl⟩ rem
  · rw [ext, if_neg long, afterOffsetHigh, if_neg long]
    exact .done ⟨rfl, rfl⟩

/-- EMIT_OFFSET_LOW (R169). -/
theorem Emits.of_offsetLow (h : EncAt .emitOffsetLow L ML OFF lit s) :
    Emits (RecordDone lit) (offsetLow OFF :: offsetHigh OFF :: ext ML.toNat) s := by
  obtain ⟨st, rfl, rfl, rfl, rfl⟩ := h
  refine .byte (lit := s.mem.lit) (e := { s.enc with st := .emitOffsetHigh }) (by simp [st])
    (by simp only [encTurn, st]; rfl) (.of_offsetHigh ⟨rfl, rfl, rfl, rfl, rfl⟩)

/-- What follows a record's literal part (R166). -/
theorem Emits.of_afterLiterals {e : Encoder} (fields : e.ML = ML ∧ e.OFF = OFF)
    (h : EncAt (afterLiterals e) L ML OFF lit s) : Emits (RecordDone lit) (matchPart ML OFF) s := by
  obtain ⟨rfl, rfl⟩ := fields
  unfold afterLiterals at h
  unfold matchPart
  cases only : isLiteralOnly e.ML e.OFF with
  | true =>
    rw [if_pos only] at h
    exact .done ⟨h.st, h.lit⟩
  | false =>
    rw [if_neg (by simp [only])] at h
    exact .of_offsetLow h

/-- EMIT_LITERAL_BYTES, with at least one literal left (R168). -/
theorem Emits.of_literalBytes {lits : List Byte} (some : lits ≠ [])
    (h : EncAt .emitLiteralBytes L ML OFF (lits ++ lit) s) (left : s.enc.litLeft.toNat = lits.length) :
    Emits (RecordDone lit) (lits ++ matchPart ML OFF) s := by
  induction lits generalizing s with
  | nil => exact absurd rfl some
  | cons b lits ih =>
    obtain ⟨st, rfl, rfl, rfl, onLit⟩ := h
    have left' : (s.enc.litLeft - 1).toNat = lits.length := by
      rw [BitVec.toNat_sub_of_le (show 1 ≤ s.enc.litLeft.toNat by simp [left]), left]
      rfl
    have popped : s.mem.popLit = { s.mem with lit := lits ++ lit } := by rw [Memory.popLit, onLit]; rfl
    have turn : encTurn s = fire s.outRoom (emit b { s.mem with lit := lits ++ lit } (afterLiteralByte s.enc) s) s := by
      rw [← popped, ← literalByteEffect_of_cons onLit]
      simp only [encTurn, st]
    refine .byte (by simp [st]) turn ?_
    cases lits with
    | nil =>
      have last : s.enc.litLeft - 1 = 0 := BitVec.eq_of_toNat_eq left'
      exact .of_afterLiterals ⟨rfl, rfl⟩ ⟨if_pos last, rfl, rfl, rfl, rfl⟩
    | cons b' lits =>
      have more : s.enc.litLeft - 1 ≠ 0 := fun zero => by rw [zero] at left'; cases left'
      exact ih (List.cons_ne_nil _ _) ⟨if_neg more, rfl, rfl, rfl, rfl⟩ left'

variable {lits : List Byte}

/-- EMIT_LIT_LEN_EXT (R167). -/
theorem Emits.of_litLenExt (long : nibbleMax ≤ L.toNat) (count : lits.length = L.toNat)
    (h : EncAt .emitLitLenExt L ML OFF (lits ++ lit) s) {v : Nat} (rem : s.enc.rem.toNat = v) :
    Emits (RecordDone lit) (lenExt v ++ (lits ++ matchPart ML OFF)) s := by
  have some : lits ≠ [] := List.ne_nil_of_length_pos (count ▸ (show 0 < nibbleMax by decide).trans_le long)
  refine .of_extByte (last := fun e => { e with litLeft := e.L, st := .emitLiteralBytes }) (by decide)
    (fun u st => by simp only [encTurn, st]; rfl) (fun u b at_ => ?_) h rem
  exact .of_literalBytes some ⟨rfl, at_.L, at_.ML, at_.OFF, rfl⟩ ((congrArg BitVec.toNat at_.L).trans count.symm)

/-- EMIT_TOKEN_BYTE: from there ENC emits the whole record (R90, R165). -/
theorem Emits.of_tokenByte (count : lits.length = L.toNat) (h : EncAt .emitTokenByte L ML OFF (lits ++ lit) s) :
    Emits (RecordDone lit) (record L ML OFF lits) s := by
  obtain ⟨st, rfl, rfl, rfl, onLit⟩ := h
  have whole : record s.enc.L s.enc.ML s.enc.OFF lits =
      tokenByte s.enc.L s.enc.ML :: (ext s.enc.L.toNat ++ (lits ++ matchPart s.enc.ML s.enc.OFF)) := by simp [record]
  rw [whole]
  refine .byte (lit := s.mem.lit) (e := afterTokenByte s.enc) (by simp [st]) (by simp only [encTurn, st]; rfl) ?_
  unfold afterTokenByte ext
  by_cases long : nibbleMax ≤ s.enc.L.toNat
  · have rem : (s.enc.L - BitVec.ofNat 32 nibbleMax).toNat = s.enc.L.toNat - nibbleMax := BitVec.toNat_sub_of_le long
    rw [if_pos long, if_pos long]
    refine .of_litLenExt long count ?_ rem
    exact ⟨rfl, rfl, rfl, rfl, onLit⟩
  rw [if_neg long, if_neg long, List.nil_append]
  by_cases positive : 0 < s.enc.L.toNat
  · rw [if_pos positive]
    exact .of_literalBytes (List.ne_nil_of_length_pos (count ▸ positive)) ⟨rfl, rfl, rfl, rfl, onLit⟩ count.symm
  · obtain rfl : lits = [] := List.eq_nil_of_length_eq_zero (by omega)
    rw [if_neg positive]
    exact .of_afterLiterals (e := s.enc) ⟨rfl, rfl⟩ ⟨rfl, rfl, rfl, rfl, onLit⟩

/-- From the turn that latched a descriptor on, ENC emits its record (R164, R174). -/
theorem Emits.of_latchEffect (ML OFF : Half) (count : lits.length = L.toNat) (onLit : s.mem.lit = lits ++ lit) :
    Emits (RecordDone lit) (record L ML OFF lits) (latchEffect L ML OFF s) :=
  .of_tokenByte count ⟨rfl, rfl, rfl, rfl, onLit⟩

end phases

/-! ### A block's descriptors in order (R91, R175) -/

/-- ENC takes a descriptor other than END (R164). -/
theorem act_enc_latch {s : State} {d : DWord} {ds : List DWord} (st : s.enc.st = .readDescriptor)
    (desc : s.mem.desc = d :: ds) (nonzero : d ≠ 0) :
    act .enc s = .next (latchEffect (descL d) (descML d) (descOFF d) s) := by
  rw [act, encTurn_descriptor (.inl st) desc, if_neg nonzero, takeDescriptor, st, pack_fields]
  exact fire_of_ready ((descAtHead_iff d s).2 (by rw [desc]; rfl))

/-- ENC takes END and goes on to write the size (R164). -/
theorem act_enc_end {s : State} {ds : List DWord} (st : s.enc.st = .readDescriptor) (desc : s.mem.desc = 0 :: ds) :
    act .enc s = .next { s with mem := { s.mem with desc := ds }, enc := { s.enc with st := .writeSize } } := by
  rw [act, encTurn_descriptor (.inl st) desc, if_pos rfl]
  exact execEndDesc_of_readDescriptor st desc

/-- ENC writes the size (R172). -/
theorem act_enc_writeSize {s : State} (st : s.enc.st = .writeSize) (room : s.mem.size.length < s.cfg.sizeDepth) :
    act .enc s = .next { s with
      mem := { s.mem with size := s.mem.size ++ [s.enc.size] }
      enc := { s.enc with st := .done } } := by
  have turn : act .enc s = fire s.sizeRoom (writeSizeEffect s) s := by simp only [act, encTurn, st]
  rw [turn, (State.sizeRoom_iff s).2 room, fire_true]
  rfl

/-- From END to the end of the block ENC takes two turns (R164, R172). -/
theorem runAgent_end {s : State} {ds : List DWord} (st : s.enc.st = .readDescriptor) (desc : s.mem.desc = 0 :: ds)
    (room : s.mem.size.length < s.cfg.sizeDepth) :
    runAgent .enc 2 s = .next { s with
      mem := { s.mem with desc := ds, size := s.mem.size ++ [s.enc.size] }
      enc := { s.enc with st := .done } } :=
  (runAgent_succ (act_enc_end st desc)).trans (runAgent_succ (act_enc_writeSize rfl room))

/-- ENC's run over one descriptor other than END: one turn takes it, and each byte of its record is one more (R174, R301). -/
theorem runAgent_record {s : State} {d : DWord} {descRest : List DWord} {lits litRest : List Byte}
    (st : s.enc.st = .readDescriptor) (desc : s.mem.desc = d :: descRest) (nonzero : d ≠ 0)
    (onLit : s.mem.lit = lits ++ litRest) (count : lits.length = (descL d).toNat)
    (room : HasRoom (recordOf d lits).length s) :
    ∃ e, runAgent .enc ((recordOf d lits).length + 1) s = .next (s.emitted descRest litRest (recordOf d lits) e) ∧
      e.st = .readDescriptor ∧ e.size.toNat = s.enc.size.toNat + (recordOf d lits).length := by
  obtain ⟨lit, e, run, ⟨st', rfl⟩, size⟩ := (Emits.of_latchEffect (descML d) (descOFF d) count onLit).run room
  refine ⟨e, (runAgent_succ (act_enc_latch st desc nonzero)).trans (run.trans ?_), st', size⟩
  rw [State.emitted, show descRest = s.mem.desc.tail by rw [desc]; rfl]
  rfl

/-- ENC's run over descriptors other than END, by induction on them. -/
theorem runAgent_descriptors {ds descRest : List DWord} {lits litRest : List Byte} {s : State}
    (st : s.enc.st = .readDescriptor) (desc : s.mem.desc = ds ++ descRest) (noEnd : 0 ∉ ds)
    (onLit : s.mem.lit = lits ++ litRest) (count : lits.length = runsIn ds)
    (room : HasRoom (encodeDescs ds lits).length s) :
    ∃ e, runAgent .enc (ds.length + (encodeDescs ds lits).length) s =
        .next (s.emitted descRest litRest (encodeDescs ds lits) e) ∧
      e.st = .readDescriptor ∧ e.size.toNat = s.enc.size.toNat + (encodeDescs ds lits).length := by
  induction ds generalizing s lits with
  | nil =>
    obtain rfl : lits = [] := List.eq_nil_of_length_eq_zero count
    have same : s.emitted descRest litRest [] s.enc = s := by
      rw [List.nil_append] at desc onLit
      simp [State.emitted, ← desc, ← onLit]
    exact ⟨s.enc, by rw [encodeDescs, same]; rfl, st, rfl⟩
  | cons d ds ih =>
    obtain ⟨nonzero, noEnd⟩ := List.ne_and_not_mem_of_not_mem_cons noEnd
    rw [runsIn_cons] at count
    rw [List.cons_append] at desc
    have enough : (lits.take (descL d).toNat).length = (descL d).toNat := List.length_take_of_le (by omega)
    have others : (lits.drop (descL d).toNat).length = runsIn ds := by rw [List.length_drop]; omega
    have parts : encodeDescs (d :: ds) lits =
        recordOf d (lits.take (descL d).toNat) ++ encodeDescs ds (lits.drop (descL d).toNat) := if_neg nonzero.symm
    rw [← List.take_append_drop (descL d).toNat lits, List.append_assoc] at onLit
    generalize lits.take (descL d).toNat = own, lits.drop (descL d).toNat = rest at *
    rw [parts, List.length_append] at room ⊢
    obtain ⟨e, run, st', size⟩ := runAgent_record st desc nonzero.symm onLit enough (room.mono (Nat.le_add_right _ _))
    obtain ⟨e', run', st'', size'⟩ := ih st' rfl noEnd rfl others (room.emitted size (ds ++ descRest) (rest ++ litRest))
    refine ⟨e', ?_, st'', by rw [size', ← Nat.add_assoc, ← size]; rfl⟩
    have turns : (d :: ds).length + ((recordOf d own).length + (encodeDescs ds rest).length) =
        (recordOf d own).length + 1 + (ds.length + (encodeDescs ds rest).length) := by rw [List.length_cons]; omega
    rw [turns, runAgent_add run, run', State.emitted_emitted]

/-- Settles O36: the records, then END's turn, then the size's. -/
theorem blockEmission : Obligations.BlockEmission := by
  intro s ds descRest lits litRest st zero desc noEnd onLit count outRoom sizeFits sizeRoom
  have start : s.enc.size.toNat = 0 := by rw [zero]; rfl
  obtain ⟨e, run, st', size⟩ := runAgent_descriptors st desc noEnd onLit count ⟨outRoom, by omega⟩
  rw [start, Nat.zero_add] at size
  have reported : e.size = BitVec.ofNat 32 (encodeDescs ds lits).length := by
    rw [← size, BitVec.ofNat_toNat, BitVec.setWidth_eq]
  have turns : ds.length + 1 + (encodeDescs ds lits).length + 1 = ds.length + (encodeDescs ds lits).length + 2 := by omega
  rw [turns, runAgent_add run, ← reported]
  exact ⟨_, runAgent_end st' rfl sizeRoom, rfl, rfl, rfl, rfl, rfl, rfl⟩

end Sys2Proof.Machine
end

section
/-! PROOFS, the statements of 40_divider.md on one turn of DIV. What a token at the head of TOK does when its rule is enabled and
when it waits (R121 to R123), the three checks before any rule (R124, R265), the flush (R126 to R128) and the end (R129). -/

namespace Sys2Proof.Machine

open Sys2Proof.Safety

/-! ### What a token's rule rests on -/

theorem fire_of_not_ready {ready : Bool} {after before : State} (h : ¬ ready = true) :
    fire ready after before = .next before := by
  rw [eq_false_of_ne_true h, fire_false]

theorem tokenAtHead_of_cons {s : State} {w : Word} {rest : List Word} (st : s.div.st = .readToken)
    (tok : s.mem.tok = w :: rest) : tokenAtHead w s = true :=
  (tokenAtHead_iff w s).2 ⟨st, by rw [tok]; rfl⟩

theorem Memory.popTok_of_cons {m : Memory} {w : Word} {rest : List Word} (tok : m.tok = w :: rest) :
    m.popTok = { m with tok := rest } := by
  rw [Memory.popTok, tok]
  rfl

/-- R122: the match length by number. -/
theorem matchLengthOf_eq {raw : Byte} (long : 4 ≤ raw.toNat) : matchLengthOf raw = BitVec.ofNat 16 (raw.toNat - 4) := by
  have small := raw.isLt
  have wide : (raw.setWidth 16).toNat = raw.toNat := BitVec.toNat_setWidth_of_le (by decide)
  apply BitVec.eq_of_toNat_eq
  rw [matchLengthOf, BitVec.toNat_sub_of_le (long.trans_eq wide.symm), wide]
  exact (Nat.mod_eq_of_lt (by omega)).symm

theorem not_overshoots {s : State} {raw : Byte} (fits : s.div.pos.toNat + raw.toNat ≤ s.div.n.toNat) :
    ¬ overshoots raw s = true :=
  fun past => Nat.not_lt.2 fits ((overshoots_iff raw s).1 past)

/-! ### The token rules (R121 to R123) -/

section rules
variable {s : State} {ch raw : Byte} {off : Half} {rest : List Word}

/-- LIT is enabled (R121). -/
theorem exec_lit_of_room (st : s.div.st = .readToken) (tok : s.mem.tok = tokenWord ch 0 off :: rest)
    (room : s.mem.lit.length < s.cfg.litDepth) : exec (.lit ch off) s = .next (litEffect ch s) := by
  refine fire_of_ready ?_
  rw [tokenAtHead_of_cons st tok, (State.litRoom_iff s).2 room]
  rfl

/-- MATCH is enabled (R122). -/
theorem exec_matchTok_of_room (st : s.div.st = .readToken) (tok : s.mem.tok = tokenWord ch raw off :: rest)
    (fits : s.div.pos.toNat + raw.toNat ≤ s.div.n.toNat) (below : s.div.litCount.toNat < s.cfg.maxLitCount.toNat)
    (room : s.mem.desc.length < s.cfg.descDepth) : exec (.matchTok ch raw off) s = .next (matchEffect raw off s) := by
  have notReached : atCeiling s = false :=
    eq_false_of_ne_true fun reached => Nat.not_le.2 below ((atCeiling_iff s).1 reached)
  refine (if_neg (not_overshoots fits)).trans (fire_of_ready ?_)
  rw [tokenAtHead_of_cons st tok, notReached, (State.descRoom_iff s).2 room]
  rfl

/-- MATCH waits for room in DESC (R122, R264). -/
theorem exec_matchTok_of_full (fits : s.div.pos.toNat + raw.toNat ≤ s.div.n.toNat)
    (full : s.cfg.descDepth ≤ s.mem.desc.length) : exec (.matchTok ch raw off) s = .next s := by
  refine (if_neg (not_overshoots fits)).trans (fire_of_not_ready fun ready => ?_)
  rw [Bool.and_eq_true, State.descRoom_iff] at ready
  exact Nat.not_lt.2 full ready.2

/-- MATCH_OVF is enabled, with or without room in DESC (R123). -/
theorem exec_matchOvf_of_reached (st : s.div.st = .readToken) (tok : s.mem.tok = tokenWord ch raw off :: rest)
    (fits : s.div.pos.toNat + raw.toNat ≤ s.div.n.toNat) (reached : s.cfg.maxLitCount.toNat ≤ s.div.litCount.toNat) :
    exec (.matchOvf ch raw off) s = .next (matchOvfEffect raw s) := by
  refine (if_neg (not_overshoots fits)).trans (fire_of_ready ?_)
  rw [tokenAtHead_of_cons st tok, (atCeiling_iff s).2 reached]
  rfl

end rules

/-- Settles O10: LIT with room and without; inside the walk both counters are below n, so at most 65535. -/
theorem literalTokenStep : Obligations.LiteralTokenStep := by
  intro s ch off rest st tok
  refine ⟨fun room => ?_, fun full => ?_, fun walk => ?_⟩
  · rw [exec_lit_of_room st tok room, litEffect, Memory.popTok_of_cons tok]
    rfl
  · refine fire_of_not_ready fun ready => ?_
    rw [Bool.and_eq_true, State.litRoom_iff] at ready
    exact Nat.not_lt.2 full ready.2
  · obtain ⟨counted, inside, bound⟩ := walk.1 st
    simp only [maxBlock] at bound
    exact ⟨BitVec.toNat_add_of_lt (by simp; omega), BitVec.toNat_add_of_lt (by simp; omega), inside⟩

/-- Settles O11: MATCH with room and without; OFFSET at least 1 keeps the word from being END. -/
theorem matchTokenStep : Obligations.MatchTokenStep := by
  intro s ch raw off rest st tok long near fits below
  refine ⟨fun room => ?_, exec_matchTok_of_full fits, fun zero => ?_⟩
  · rw [exec_matchTok_of_room st tok fits below room, matchEffect, Memory.popTok_of_cons tok, matchLengthOf_eq long]
    rfl
  · obtain ⟨_, _, rfl⟩ := pack_eq_zero.1 zero
    cases near

/-- Settles O12: MATCH_OVF is enabled. -/
theorem matchAtCeilingStep : Obligations.MatchAtCeilingStep := by
  intro s ch raw off rest st tok _ _ fits reached
  rw [exec_matchOvf_of_reached st tok fits reached, matchOvfEffect, Memory.popTok_of_cons tok]
  rfl

/-! ### The checks before any rule (R124, R265) -/

/-- Settles O15: both match rows test the overshoot first. -/
theorem overshootFaults : Obligations.OvershootFaults := by
  intro s ch raw off rest st tok _ _ past i row
  have overshoot := (overshoots_iff raw s).2 past
  obtain rfl | rfl := row
  · exact (if_pos overshoot).trans (fire_tokenFault st tok _)
  · exact (if_pos overshoot).trans (fire_tokenFault st tok _)

theorem exists_tokenWord (w : Word) : ∃ ch raw off, w = tokenWord ch raw off :=
  ⟨litChar w, rawLen w, tokOffset w, (tokenWord_fields w).symm⟩

/-- RAW_LEN by number (R80). -/
theorem toNat_rawLen (w : Word) : (rawLen w).toNat = w.toNat / 256 % 256 := by simp [rawLen, Nat.shiftRight_eq_div_pow]

/-- OFFSET by number (R80). -/
theorem toNat_tokOffset (w : Word) : (tokOffset w).toNat = w.toNat / 65536 := by
  have := w.isLt
  simp [tokOffset, Nat.shiftRight_eq_div_pow]
  omega

theorem walkEnd_ne_fault (n pos : Word) : walkEnd n pos ≠ .fault := by
  unfold walkEnd
  split <;> nofun

/-- From `s` to `t` DIV raises no fault. -/
def RaisesNothing (s t : State) : Prop := t.div.st ≠ .fault ∧ t.div.fault = s.div.fault

section checks
variable {s : State} {ch raw : Byte} {off : Half} {rest : List Word} (st : s.div.st = .readToken)
include st

/-- DIV runs the instruction of the fields at the head of TOK (R95). -/
theorem divTurn_token {i : Instr} (tok : s.mem.tok = tokenWord ch raw off :: rest)
    (row : decodeToken (atCeiling s) (tokenWord ch raw off) = i) : divTurn s = exec i s :=
  (divTurn_readToken st tok).trans (congrArg (exec · s) row)

/-- First check: a reserved length (R124). -/
theorem divTurn_badLength (tok : s.mem.tok = tokenWord ch raw off :: rest) (positive : 1 ≤ raw.toNat) (short : raw.toNat ≤ 3) :
    divTurn s = .next { s with
      mem := { s.mem with tok := rest }
      div := { s.div with st := .fault, fault := some (.badMatchLength (tokenWord ch raw off) s.div.pos) } } := by
  obtain ⟨one, two, three, _⟩ := reservedTokensFault s ch off rest st
  obtain rfl | rfl | rfl : raw = 1 ∨ raw = 2 ∨ raw = 3 := by
    have : raw.toNat = 1 ∨ raw.toNat = 2 ∨ raw.toNat = 3 := by omega
    exact this.imp BitVec.eq_of_toNat_eq (.imp BitVec.eq_of_toNat_eq BitVec.eq_of_toNat_eq)
  · exact (divTurn_token st tok (decodeToken_badLen1 _ ch off)).trans (one tok)
  · exact (divTurn_token st tok (decodeToken_badLen23 _ ch 0 off)).trans (two tok)
  · exact (divTurn_token st tok (decodeToken_badLen23 _ ch 1 off)).trans (three tok)

/-- Second check: a match without an offset (R124). -/
theorem divTurn_zeroOffset (tok : s.mem.tok = tokenWord ch raw 0 :: rest) (long : rawLenOk raw = true) :
    divTurn s = .next { s with
      mem := { s.mem with tok := rest }
      div := { s.div with st := .fault, fault := some (.zeroOffset (tokenWord ch raw 0) s.div.pos) } } :=
  (divTurn_token st tok (decodeToken_matchZeroOff _ ch long)).trans (fire_tokenFault st tok _)

/-- Third check: a match past the end of the block, at the ceiling or below it (R124). -/
theorem divTurn_overshoot (tok : s.mem.tok = tokenWord ch raw off :: rest) (long : 4 ≤ raw.toNat) (near : 1 ≤ off.toNat)
    (past : s.div.n.toNat < s.div.pos.toNat + raw.toNat) :
    divTurn s = .next { s with
      mem := { s.mem with tok := rest }
      div := { s.div with
        st := .fault, fault := some (.overshoot (tokenWord ch raw off) s.div.pos s.div.n) } } := by
  have offset : off ≠ 0 := by rintro rfl; cases near
  refine (divTurn_token st tok (decodeToken_match _ ch (decide_eq_true long) offset)).trans ?_
  refine overshootFaults s ch raw off rest st tok long near past _ ?_
  cases atCeiling s
  · exact .inl rfl
  · exact .inr rfl

/-- A token that passes the checks raises nothing, whether its rule is enabled or waits (R124). -/
theorem raisesNothing_of_divTurn {t : State} (tok : s.mem.tok = tokenWord ch raw off :: rest) (turn : divTurn s = .next t)
    (passes : raw = 0 ∨ (rawLenOk raw = true ∧ off ≠ 0 ∧ ¬ overshoots raw s = true)) : RaisesNothing s t := by
  have stuck : RaisesNothing s s := ⟨by simp [st], rfl⟩
  obtain rfl | ⟨long, near, inside⟩ := passes
  · rw [divTurn_token st tok (decodeToken_lit _ ch off)] at turn
    exact fire_preserves turn ⟨walkEnd_ne_fault _ _, rfl⟩ stuck
  · rw [divTurn_token st tok (decodeToken_match _ ch long near)] at turn
    cases ceiling : atCeiling s <;> rw [ceiling] at turn
    · exact fire_preserves ((if_neg inside).symm.trans turn) ⟨walkEnd_ne_fault _ _, rfl⟩ stuck
    · exact fire_preserves ((if_neg inside).symm.trans turn) ⟨walkEnd_ne_fault _ _, rfl⟩ stuck

end checks

/-- Settles O14: the token by its fields; each check is one case, and what passes all three is a literal or a match inside the
block. -/
theorem tokenFaultOrder : Obligations.TokenFaultOrder := by
  intro s w rest st tok raw' off' faulted
  have hraw : raw' = (rawLen w).toNat := (toNat_rawLen w).symm
  have hoff : off' = (tokOffset w).toNat := (toNat_tokOffset w).symm
  clear_value raw' off'
  subst hraw hoff
  obtain ⟨ch, raw, off, rfl⟩ := exists_tokenWord w
  rw [rawLen_tokenWord, tokOffset_tokenWord]
  refine ⟨divTurn_badLength st tok, fun long zero => ?_, divTurn_overshoot st tok, fun t turn notShort notZero inside => ?_,
    fun walk _ => ?_⟩
  · obtain rfl : off = 0 := BitVec.eq_of_toNat_eq zero
    exact divTurn_zeroOffset st tok (decide_eq_true long)
  · refine raisesNothing_of_divTurn st tok turn ?_
    by_cases literal : raw.toNat = 0
    · exact .inl (BitVec.eq_of_toNat_eq literal)
    · have long : 4 ≤ raw.toNat := by omega
      refine .inr ⟨decide_eq_true long, ?_, fun past => inside ⟨long, (overshoots_iff raw s).1 past⟩⟩
      rintro rfl
      exact notZero ⟨long, rfl⟩
  · obtain ⟨_, inside, _⟩ := walk.1 st
    exact inside

/-! ### The flush and the end (R126 to R129) -/

section flushing
variable {s : State}

theorem trailingAtCeiling_iff (s : State) : trailingAtCeiling s = true ↔ s.div.litCount = s.cfg.maxLitCount := by
  simp [trailingAtCeiling]

theorem flushReady_iff (s : State) : flushReady s = true ↔ s.div.litCount = 0 ∨ s.mem.desc.length < s.cfg.descDepth := by
  simp [flushReady]

theorem flushEffect_of_empty (empty : s.div.litCount = 0) : flushEffect s = flushNone s := if_pos empty

theorem flushEffect_of_ceiling (busy : s.div.litCount ≠ 0) (ceiling : s.div.litCount = s.cfg.maxLitCount) :
    flushEffect s = flushOvf s :=
  (if_neg busy).trans (if_pos ((trailingAtCeiling_iff s).2 ceiling))

theorem flushEffect_of_ne (busy : s.div.litCount ≠ 0) (other : s.div.litCount ≠ s.cfg.maxLitCount) :
    flushEffect s = flushTrail s :=
  (if_neg busy).trans (if_neg (mt (trailingAtCeiling_iff s).1 other))

theorem divTurn_flush (st : s.div.st = .flush) : divTurn s = fire (flushReady s) (flushEffect s) s := by rw [divTurn, st]

theorem divTurn_emitEnd (st : s.div.st = .emitEnd) : divTurn s = fire s.descRoom (emitEndEffect s) s := by rw [divTurn, st]

/-- The flush is enabled. -/
theorem divTurn_flush_of_ready (st : s.div.st = .flush) (ready : s.div.litCount = 0 ∨ s.mem.desc.length < s.cfg.descDepth) :
    divTurn s = .next (flushEffect s) :=
  (divTurn_flush st).trans (fire_of_ready ((flushReady_iff s).2 ready))

/-- DIV ends its block (R129). -/
theorem divTurn_emitEnd_of_room (st : s.div.st = .emitEnd) (room : s.mem.desc.length < s.cfg.descDepth) :
    divTurn s = .next (emitEndEffect s) :=
  (divTurn_emitEnd st).trans (fire_of_ready ((State.descRoom_iff s).2 room))

end flushing

/-- Settles O16: which flush it is, by the count. -/
theorem trailingRunFlush : Obligations.TrailingRunFlush := by
  intro s st positive
  refine ⟨fun empty => ?_, fun busy other room => ?_, fun ceiling room => ?_, fun busy full => ?_⟩
  · exact (divTurn_flush_of_ready st (.inl empty)).trans (congrArg _ (flushEffect_of_empty empty))
  · exact (divTurn_flush_of_ready st (.inr room)).trans (congrArg _ (flushEffect_of_ne busy other))
  · exact (divTurn_flush_of_ready st (.inr room)).trans (congrArg _ (flushEffect_of_ceiling (ceiling ▸ positive) ceiling))
  · refine (divTurn_flush st).trans (fire_of_not_ready fun ready => ?_)
    exact Nat.not_lt.2 full (((flushReady_iff s).1 ready).resolve_left busy)

/-- Settles O17: the end with room in DESC and without. -/
theorem endSentinelStep : Obligations.EndSentinelStep := by
  intro s st
  refine ⟨divTurn_emitEnd_of_room st, fun full => (divTurn_emitEnd st).trans (fire_of_not_ready fun room => ?_)⟩
  exact Nat.not_lt.2 full ((State.descRoom_iff s).1 room)

end Sys2Proof.Machine
end

section
/-! PROOFS, the statements of 40_divider.md on the quoted algorithm alone. What one token and the flush do to what the algorithm has
produced, and by induction over the tokens read so far: the count is at most the bytes covered (R132), the run lengths add up to
the literals (R134), the words are matches (R135), and the flag is raised by a token met at the ceiling (R136). -/

namespace Sys2Proof.Machine

open Sys2Proof.Safety

/-! ### Tokens and what they cover (R81, R132, R222) -/

theorem isLitToken_iff (t : Word) : isLitToken t = true ↔ rawLen t = 0 := by simp [isLitToken]

theorem covers_lit {t : Word} (lit : isLitToken t = true) : covers t = 1 := if_pos lit

theorem covers_match {t : Word} (lit : isLitToken t = false) : covers t = (rawLen t).toNat := by simp [covers, lit]

/-- A legal token that is no literal is a match. -/
theorem match_of_legalToken {t : Word} (legal : legalToken t = true) (lit : isLitToken t = false) :
    rawLenOk (rawLen t) = true ∧ tokOffset t ≠ 0 := by
  simpa [legalToken, lit, offsetOk] using legal

theorem covers_pos {t : Word} (legal : legalToken t = true) : 0 < covers t := by
  cases lit : isLitToken t
  · rw [covers_match lit]
    exact Nat.lt_of_lt_of_le (by decide) (of_decide_eq_true (match_of_legalToken legal lit).1 : minMatch ≤ _)
  · rw [covers_lit lit]
    exact Nat.one_pos

@[simp] theorem coverage_nil : coverage [] = 0 := rfl

@[simp] theorem coverage_cons (t : Word) (ts : List Word) : coverage (t :: ts) = covers t + coverage ts := by simp [coverage]

@[simp] theorem coverage_append (ts us : List Word) : coverage (ts ++ us) = coverage ts + coverage us := by simp [coverage]

/-- A parse with a token is of a block with a byte. -/
theorem coverage_pos {ts : List Word} (nonempty : ts ≠ []) (legal : ts.all legalToken = true) : 0 < coverage ts := by
  cases ts with
  | nil => exact absurd rfl nonempty
  | cons t ts =>
    rw [List.all_cons, Bool.and_eq_true] at legal
    rw [coverage_cons]
    exact Nat.add_pos_left (covers_pos legal.1) _

/-! ### One token and the flush -/

/-- All that one token does to the algorithm's products: a literal, a match at the ceiling, a match below it. -/
theorem splitToken_cases (max : Nat) (a : Split) (t : Word) :
    (isLitToken t = true ∧ splitToken max a t = { a with lits := a.lits ++ [litChar t], count := a.count + 1 }) ∨
    (isLitToken t = false ∧ max ≤ a.count ∧ splitToken max a t = { a with ovf := true }) ∨
    (isLitToken t = false ∧ ¬ max ≤ a.count ∧
      splitToken max a t =
        { a with
          descs := a.descs ++ [pack (BitVec.ofNat 32 a.count) (matchLengthOf (rawLen t)) (tokOffset t)]
          count := 0 }) := by
  cases lit : isLitToken t
  · have notLit : ¬ isLitToken t = true := ne_true_of_eq_false lit
    by_cases reached : max ≤ a.count
    · exact .inr (.inl ⟨rfl, reached, (if_neg notLit).trans (if_pos reached)⟩)
    · exact .inr (.inr ⟨rfl, reached, (if_neg notLit).trans (if_neg reached)⟩)
  · exact .inl ⟨rfl, if_pos lit⟩

/-- All that the flush does: nothing, or the open run's descriptor, with the sentinel pair and the flag or with zeros. -/
theorem flushSplit_cases (max : Nat) (sentinel : Half) (a : Split) :
    (a.count = 0 ∧ flushSplit max sentinel a = a) ∨
    (a.count ≠ 0 ∧ a.count = max ∧ flushSplit max sentinel a =
      { a with descs := a.descs ++ [pack (BitVec.ofNat 32 a.count) sentinel sentinel], ovf := true }) ∨
    (a.count ≠ 0 ∧ a.count ≠ max ∧ flushSplit max sentinel a =
      { a with descs := a.descs ++ [pack (BitVec.ofNat 32 a.count) 0 0] }) := by
  by_cases empty : a.count = 0
  · exact .inl ⟨empty, if_pos empty⟩
  by_cases ceiling : a.count = max
  · exact .inr (.inl ⟨empty, ceiling, (if_neg empty).trans (if_pos ceiling)⟩)
  · exact .inr (.inr ⟨empty, ceiling, (if_neg empty).trans (if_neg ceiling)⟩)

theorem splitTokens_nil (max : Nat) : splitTokens max [] = Split.empty := rfl

/-- The last token is read after the others. -/
theorem splitTokens_concat (max : Nat) (ts : List Word) (t : Word) :
    splitTokens max (ts ++ [t]) = splitToken max (splitTokens max ts) t := by
  simp [splitTokens]

/-! ### The counter (R25, R132) -/

theorem count_splitToken_le (max : Nat) (a : Split) (t : Word) : (splitToken max a t).count ≤ a.count + covers t := by
  obtain ⟨lit, e⟩ | ⟨_, _, e⟩ | ⟨_, _, e⟩ := splitToken_cases max a t <;> rw [e]
  · rw [covers_lit lit]
  · exact Nat.le_add_right _ _
  · exact Nat.zero_le _

theorem count_splitTokens_le (max : Nat) (ts : List Word) : (splitTokens max ts).count ≤ coverage ts := by
  induction ts using List.reverseRecOn with
  | nil => exact Nat.le_refl 0
  | append_singleton ts t ih =>
    rw [splitTokens_concat, coverage_append, coverage_cons, coverage_nil, Nat.add_zero]
    exact (count_splitToken_le max _ t).trans (Nat.add_le_add_right ih _)

/-- A run inside one block fits its descriptor's 32 bits (R6, R85). -/
theorem toNat_ofNat_run {count : Nat} (inBlock : count ≤ 65536) : (BitVec.ofNat 32 count).toNat = count :=
  Nat.mod_eq_of_lt (by omega)

/-! ### Run lengths add up to literals (R134) -/

theorem runsIn_splitToken {max : Nat} {a : Split} (inBlock : a.count ≤ 65536)
    (agree : runsIn a.descs + a.count = a.lits.length) (t : Word) :
    runsIn (splitToken max a t).descs + (splitToken max a t).count = (splitToken max a t).lits.length := by
  obtain ⟨_, e⟩ | ⟨_, _, e⟩ | ⟨_, _, e⟩ := splitToken_cases max a t <;> rw [e]
  · simp [← agree, Nat.add_assoc]
  · exact agree
  · simp [← agree, toNat_ofNat_run inBlock, -BitVec.toNat_ofNat]

theorem runsIn_splitTokens (max : Nat) {ts : List Word} (inBlock : coverage ts ≤ 65536) :
    runsIn (splitTokens max ts).descs + (splitTokens max ts).count = (splitTokens max ts).lits.length := by
  induction ts using List.reverseRecOn with
  | nil => rfl
  | append_singleton ts t ih =>
    have before : coverage ts ≤ 65536 := (Nat.le_add_right _ _).trans ((coverage_append ts [t]).symm.trans_le inBlock)
    rw [splitTokens_concat]
    exact runsIn_splitToken ((count_splitTokens_le max ts).trans before) (ih before) t

/-- The flush sends the open run, whatever the descriptor's match part is. -/
theorem runsIn_flushSplit (max : Nat) (sentinel : Half) {a : Split} (inBlock : a.count ≤ 65536) :
    runsIn (flushSplit max sentinel a).descs = runsIn a.descs + a.count := by
  obtain ⟨empty, e⟩ | ⟨_, _, e⟩ | ⟨_, _, e⟩ := flushSplit_cases max sentinel a <;> rw [e]
  · rw [empty, Nat.add_zero]
  · simp [toNat_ofNat_run inBlock, -BitVec.toNat_ofNat]
  · simp [toNat_ofNat_run inBlock, -BitVec.toNat_ofNat]

theorem lits_flushSplit (max : Nat) (sentinel : Half) (a : Split) : (flushSplit max sentinel a).lits = a.lits := by
  obtain ⟨_, e⟩ | ⟨_, _, e⟩ | ⟨_, _, e⟩ := flushSplit_cases max sentinel a <;> rw [e]

/-- Settles O39: the tokens' run lengths and the open run, then the flush; END adds nothing. -/
theorem streamConsistency : Obligations.StreamConsistency := by
  intro c ts inBlock
  have count := (count_splitTokens_le c.maxLitCount.toNat ts).trans inBlock
  calc runsIn (divideBlock c ts).descs
    _ = runsIn (flushSplit c.maxLitCount.toNat c.ovfSentinel (splitTokens c.maxLitCount.toNat ts)).descs :=
        runsIn_append _ [0]
    _ = runsIn (splitTokens c.maxLitCount.toNat ts).descs + (splitTokens c.maxLitCount.toNat ts).count :=
        runsIn_flushSplit _ _ count
    _ = (splitTokens c.maxLitCount.toNat ts).lits.length := runsIn_splitTokens _ inBlock
    _ = (divideBlock c ts).lits.length := congrArg List.length (lits_flushSplit _ _ _).symm

/-! ### The words are matches, a trailing word and END (R135) -/

/-- A word that DIV sends for a match below the ceiling (R122). -/
def IsMatchWord (d : DWord) : Prop := 1 ≤ (descOFF d).toNat ∧ (descML d).toNat ≤ 251

theorem isMatchWord_pack (L : Word) {raw : Byte} {off : Half} (long : rawLenOk raw = true) (near : off ≠ 0) :
    IsMatchWord (pack L (matchLengthOf raw) off) := by
  have small := raw.isLt
  have four : 4 ≤ raw.toNat := of_decide_eq_true long
  rw [IsMatchWord, descOFF_pack, descML_pack, matchLengthOf_eq four]
  refine ⟨Nat.pos_of_ne_zero fun zero => near (BitVec.eq_of_toNat_eq zero), ?_⟩
  rw [BitVec.toNat_ofNat, Nat.mod_eq_of_lt (by omega)]
  omega

theorem isMatchWord_splitToken {max : Nat} {a : Split} {t : Word} (legal : legalToken t = true)
    (words : ∀ d ∈ a.descs, IsMatchWord d) : ∀ d ∈ (splitToken max a t).descs, IsMatchWord d := by
  obtain ⟨_, e⟩ | ⟨_, _, e⟩ | ⟨lit, _, e⟩ := splitToken_cases max a t <;> rw [e]
  · exact words
  · exact words
  · obtain ⟨long, near⟩ := match_of_legalToken legal lit
    exact List.forall_mem_append.2 ⟨words, List.forall_mem_singleton.2 (isMatchWord_pack _ long near)⟩

theorem isMatchWord_splitTokens (max : Nat) {ts : List Word} (legal : ts.all legalToken = true) :
    ∀ d ∈ (splitTokens max ts).descs, IsMatchWord d := by
  induction ts using List.reverseRecOn with
  | nil => exact List.forall_mem_nil _
  | append_singleton ts t ih =>
    rw [List.all_append, Bool.and_eq_true] at legal
    rw [splitTokens_concat]
    exact isMatchWord_splitToken (by simpa using legal.2) (ih legal.1)

/-- Settles O40: the tokens' words are matches, and the trailing word is the flush's. -/
theorem descriptorStreamShape : Obligations.DescriptorStreamShape := by
  intro c ts legal inBlock
  have words := isMatchWord_splitTokens c.maxLitCount.toNat legal
  have run := toNat_ofNat_run ((count_splitTokens_le c.maxLitCount.toNat ts).trans inBlock)
  rw [divideBlock]
  generalize splitTokens c.maxLitCount.toNat ts = a at words run ⊢
  have nonzero (busy : a.count ≠ 0) : BitVec.ofNat 32 a.count ≠ 0 := fun zero => by
    rw [zero] at run
    exact busy run.symm
  obtain ⟨_, e⟩ | ⟨busy, ceiling, e⟩ | ⟨busy, other, e⟩ := flushSplit_cases c.maxLitCount.toNat c.ovfSentinel a <;> rw [e]
  · exact ⟨a.descs, [], by simp, words, .inl rfl⟩
  · have full : BitVec.ofNat 32 a.count = c.maxLitCount := BitVec.eq_of_toNat_eq (run.trans ceiling)
    exact ⟨a.descs, _, rfl, words, .inr (.inr ⟨full ▸ nonzero busy, by rw [full]⟩)⟩
  · exact ⟨a.descs, _, rfl, words,
      .inr (.inl ⟨_, nonzero busy, fun full => other (run.symm.trans (congrArg _ full)), rfl⟩)⟩

/-! ### The overflow flag (R136) -/

/-- One token raises the flag exactly if it is a match met at the ceiling (R123). -/
theorem ovf_splitToken_iff (max : Nat) (a : Split) (t : Word) :
    (splitToken max a t).ovf = true ↔ a.ovf = true ∨ (isLitToken t = false ∧ max ≤ a.count) := by
  obtain ⟨lit, e⟩ | ⟨lit, reached, e⟩ | ⟨lit, below, e⟩ := splitToken_cases max a t <;> rw [e]
  · simp [lit]
  · simp [lit, reached]
  · simp [below]

/-- Some token of `ts` is a match met at the ceiling. -/
def MeetsCeiling (max : Nat) (ts : List Word) : Prop :=
  ∃ p t q, ts = p ++ t :: q ∧ isLitToken t = false ∧ max ≤ (splitTokens max p).count

/-- Such a token is among the first ones or it is the last. -/
theorem meetsCeiling_concat (max : Nat) (ts : List Word) (t : Word) :
    MeetsCeiling max (ts ++ [t]) ↔ MeetsCeiling max ts ∨ (isLitToken t = false ∧ max ≤ (splitTokens max ts).count) := by
  constructor
  · rintro ⟨p, u, q, parts, lit, reached⟩
    cases q using List.reverseRecOn with
    | nil =>
      obtain ⟨rfl, last⟩ := List.append_inj' parts rfl
      cases last
      exact .inr ⟨lit, reached⟩
    | append_singleton q v =>
      rw [← List.cons_append, ← List.append_assoc] at parts
      exact .inl ⟨p, u, q, (List.append_inj' parts rfl).1, lit, reached⟩
  · rintro (⟨p, u, q, rfl, lit, reached⟩ | ⟨lit, reached⟩)
    · exact ⟨p, u, q ++ [t], by simp, lit, reached⟩
    · exact ⟨ts, t, [], rfl, lit, reached⟩

theorem ovf_splitTokens_iff (max : Nat) (ts : List Word) : (splitTokens max ts).ovf = true ↔ MeetsCeiling max ts := by
  induction ts using List.reverseRecOn with
  | nil => simp [splitTokens_nil, Split.empty, MeetsCeiling]
  | append_singleton ts t ih => rw [splitTokens_concat, ovf_splitToken_iff, ih, meetsCeiling_concat]

/-- The flush raises the flag exactly for a run of the ceiling's length (R128). -/
theorem ovf_flushSplit_iff {max : Nat} (positive : max ≠ 0) (sentinel : Half) (a : Split) :
    (flushSplit max sentinel a).ovf = true ↔ a.ovf = true ∨ a.count = max := by
  obtain ⟨empty, e⟩ | ⟨_, ceiling, e⟩ | ⟨_, other, e⟩ := flushSplit_cases max sentinel a <;> rw [e]
  · simp [empty, positive.symm]
  · simp [ceiling]
  · simp [other]

/-- Settles O38: the flush's condition after the tokens'. -/
theorem overflowFlagLaw : Obligations.OverflowFlagLaw := by
  intro c ts positive max
  have ceiling : max ≠ 0 := fun zero => positive (BitVec.eq_of_toNat_eq zero)
  exact (ovf_flushSplit_iff ceiling c.ovfSentinel _).trans (or_congr_left (ovf_splitTokens_iff max ts))

end Sys2Proof.Machine
end

section
/-! PROOFS, the statements of 40_divider.md on whole runs of DIV. The lane that has the algorithm's products so far in DIV's
registers and at the tails of LIT and DESC takes one turn per token, one for the flush and one for END, and each turn is the
algorithm's own step (R132, R133, R301). The empty block is run turn by turn (R130, R161 to R163). -/

namespace Sys2Proof.Machine

open Sys2Proof.Safety

/-! ### The lane that holds the algorithm's products -/

/-- `s` with DIV in the state `st`, `covered` bytes of the block walked, `toks` left on TOK, and what the algorithm has produced:
its counter and flag in DIV's registers, its literals and words behind what was on LIT and DESC. -/
def State.divided (st : DivState) (covered : Nat) (toks : List Word) (a : Split) (s : State) : State :=
  { s with
    mem := { s.mem with tok := toks, lit := s.mem.lit ++ a.lits, desc := s.mem.desc ++ a.descs }
    div := { s.div with
      st := st, pos := BitVec.ofNat 32 covered, litCount := BitVec.ofNat 32 a.count, ovf := a.ovf } }

/-- While tokens are read, the end-of-walk test of R125 has set the state. -/
def State.walked (covered : Nat) (toks : List Word) (a : Split) (s : State) : State :=
  s.divided (walkEnd s.div.n (BitVec.ofNat 32 covered)) covered toks a

/-- LIT and DESC have room for the algorithm's products behind what they hold. -/
def SplitFits (s : State) (a : Split) : Prop :=
  s.mem.lit.length + a.lits.length ≤ s.cfg.litDepth ∧ s.mem.desc.length + a.descs.length ≤ s.cfg.descDepth

/-- The products only grow. -/
theorem SplitFits.of_sublist {s : State} {a b : Split} (fits : SplitFits s b) (lits : a.lits.Sublist b.lits)
    (descs : a.descs.Sublist b.descs) : SplitFits s a :=
  ⟨(Nat.add_le_add_left lits.length_le _).trans fits.1, (Nat.add_le_add_left descs.length_le _).trans fits.2⟩

theorem SplitFits.of_splitToken {s : State} {max : Nat} {a : Split} {t : Word} (fits : SplitFits s (splitToken max a t)) :
    SplitFits s a := by
  obtain ⟨_, e⟩ | ⟨_, _, e⟩ | ⟨_, _, e⟩ := splitToken_cases max a t <;> rw [e] at fits
  · exact fits.of_sublist (List.sublist_append_left _ _) (List.Sublist.refl _)
  · exact fits
  · exact fits.of_sublist (List.Sublist.refl _) (List.sublist_append_left _ _)

theorem SplitFits.of_foldl {s : State} {max : Nat} {ts : List Word} {a : Split}
    (fits : SplitFits s (ts.foldl (splitToken max) a)) : SplitFits s a := by
  induction ts generalizing a with
  | nil => exact fits
  | cons t ts ih => exact (ih fits).of_splitToken

theorem SplitFits.of_flushSplit {s : State} {max : Nat} {sentinel : Half} {a : Split}
    (fits : SplitFits s (flushSplit max sentinel a)) : SplitFits s a := by
  obtain ⟨_, e⟩ | ⟨_, _, e⟩ | ⟨_, _, e⟩ := flushSplit_cases max sentinel a <;> rw [e] at fits
  · exact fits
  · exact fits.of_sublist (List.Sublist.refl _) (List.sublist_append_left _ _)
  · exact fits.of_sublist (List.Sublist.refl _) (List.sublist_append_left _ _)

/-- Room for one more literal byte. -/
theorem SplitFits.litRoom {s : State} {a : Split} {b : Byte} {count : Nat}
    (fits : SplitFits s { a with lits := a.lits ++ [b], count := count }) :
    (s.mem.lit ++ a.lits).length < s.cfg.litDepth := by
  obtain ⟨room, _⟩ := fits
  simp only [List.length_append, List.length_singleton] at room ⊢
  omega

/-- Room for one more word. -/
theorem SplitFits.descRoom {s : State} {a : Split} {d : DWord} {count : Nat} {ovf : Bool}
    (fits : SplitFits s { a with descs := a.descs ++ [d], count := count, ovf := ovf }) :
    (s.mem.desc ++ a.descs).length < s.cfg.descDepth := by
  obtain ⟨_, room⟩ := fits
  simp only [List.length_append, List.length_singleton] at room ⊢
  omega

/-! ### Enabled token rules as turns of DIV (R121 to R123) -/

section turns
variable {s : State} {ch raw : Byte} {off : Half} {rest : List Word} (st : s.div.st = .readToken)
include st

theorem divTurn_lit (tok : s.mem.tok = tokenWord ch 0 off :: rest) (room : s.mem.lit.length < s.cfg.litDepth) :
    divTurn s = .next (litEffect ch s) :=
  (divTurn_token st tok (decodeToken_lit _ ch off)).trans (exec_lit_of_room st tok room)

variable (tok : s.mem.tok = tokenWord ch raw off :: rest) (long : rawLenOk raw = true) (near : off ≠ 0)
  (fits : s.div.pos.toNat + raw.toNat ≤ s.div.n.toNat)
include tok long near fits

theorem divTurn_matchTok (below : s.div.litCount.toNat < s.cfg.maxLitCount.toNat)
    (room : s.mem.desc.length < s.cfg.descDepth) : divTurn s = .next (matchEffect raw off s) := by
  have row := (decodeToken_match (atCeiling s) ch long near).trans (if_neg (mt (atCeiling_iff s).1 (Nat.not_le.2 below)))
  exact (divTurn_token st tok row).trans (exec_matchTok_of_room st tok fits below room)

theorem divTurn_matchOvf (reached : s.cfg.maxLitCount.toNat ≤ s.div.litCount.toNat) :
    divTurn s = .next (matchOvfEffect raw s) := by
  have row := (decodeToken_match (atCeiling s) ch long near).trans (if_pos ((atCeiling_iff s).2 reached))
  exact (divTurn_token st tok row).trans (exec_matchOvf_of_reached st tok fits reached)

end turns

/-! ### Each turn is the algorithm's step -/

/-- The position after a match, as a number of bytes (R122). -/
theorem ofNat_add_matchCover (covered : Nat) (raw : Byte) :
    BitVec.ofNat 32 (covered + raw.toNat) = BitVec.ofNat 32 covered + matchCover raw := by
  rw [BitVec.ofNat_add, BitVec.ofNat_toNat]
  rfl

/-- Before the block's end DIV reads the next token (R125). -/
theorem walkEnd_of_lt {n : Word} {covered : Nat} (inside : covered < n.toNat) :
    walkEnd n (BitVec.ofNat 32 covered) = .readToken := by
  refine if_neg fun last => ?_
  rw [← last, BitVec.toNat_ofNat] at inside
  exact Nat.not_lt.2 (Nat.mod_le _ _) inside

/-- At the block's end DIV flushes (R125). -/
theorem walkEnd_of_eq {n : Word} {covered : Nat} (last : covered = n.toNat) : walkEnd n (BitVec.ofNat 32 covered) = .flush := by
  rw [last, BitVec.ofNat_toNat, BitVec.setWidth_eq]
  exact if_pos rfl

section products
variable {s : State} {covered : Nat} {t : Word} {toks : List Word} {a : Split}

/-! Each effect on the registers and channels is the algorithm's on its products (R121 to R123). -/

theorem litEffect_walked (b : Byte) :
    litEffect b (s.walked covered (t :: toks) a) =
      s.walked (covered + 1) toks { a with lits := a.lits ++ [b], count := a.count + 1 } := by
  simp only [State.walked, State.divided, BitVec.ofNat_add, ← List.append_assoc]
  rfl

theorem matchEffect_walked (raw : Byte) (off : Half) :
    matchEffect raw off (s.walked covered (t :: toks) a) =
      s.walked (covered + raw.toNat) toks
        { a with descs := a.descs ++ [pack (BitVec.ofNat 32 a.count) (matchLengthOf raw) off], count := 0 } := by
  simp only [State.walked, State.divided, ofNat_add_matchCover, ← List.append_assoc]
  rfl

theorem matchOvfEffect_walked (raw : Byte) :
    matchOvfEffect raw (s.walked covered (t :: toks) a) = s.walked (covered + raw.toNat) toks { a with ovf := true } := by
  simp only [State.walked, State.divided, ofNat_add_matchCover]
  rfl

/-- A token's turn is the algorithm's step on the token (R132). -/
theorem act_div_token (bound : s.div.n.toNat ≤ 65536) (counted : a.count ≤ covered) (legal : legalToken t = true)
    (inside : covered + covers t ≤ s.div.n.toNat) (fits : SplitFits s (splitToken s.cfg.maxLitCount.toNat a t)) :
    act .div (s.walked covered (t :: toks) a) =
      .next (s.walked (covered + covers t) toks (splitToken s.cfg.maxLitCount.toNat a t)) := by
  have before : covered < s.div.n.toNat := Nat.lt_of_lt_of_le (Nat.lt_add_of_pos_right (covers_pos legal)) inside
  have st : (s.walked covered (t :: toks) a).div.st = .readToken := walkEnd_of_lt before
  have pos : (s.walked covered (t :: toks) a).div.pos.toNat = covered := toNat_ofNat_run (before.le.trans bound)
  have count : (s.walked covered (t :: toks) a).div.litCount.toNat = a.count :=
    toNat_ofNat_run (counted.trans (before.le.trans bound))
  obtain ⟨ch, raw, off, rfl⟩ := exists_tokenWord t
  obtain ⟨lit, e⟩ | ⟨lit, reached, e⟩ | ⟨lit, below, e⟩ :=
    splitToken_cases s.cfg.maxLitCount.toNat a (tokenWord ch raw off) <;>
    rw [e] at fits ⊢
  case inl =>
    obtain rfl : raw = 0 := (rawLen_tokenWord ch raw off).symm.trans ((isLitToken_iff _).1 lit)
    rw [covers_lit lit, litChar_tokenWord, ← litEffect_walked]
    exact divTurn_lit st rfl fits.litRoom
  all_goals
    obtain ⟨long, near⟩ := match_of_legalToken legal lit
    rw [covers_match lit] at inside ⊢
    simp only [rawLen_tokenWord, tokOffset_tokenWord] at long near inside fits ⊢
    rw [← pos] at inside
  case inr.inl =>
    rw [← matchOvfEffect_walked]
    exact divTurn_matchOvf st rfl long near inside (reached.trans_eq count.symm)
  case inr.inr =>
    rw [← matchEffect_walked]
    exact divTurn_matchTok st rfl long near inside (count.trans_lt (Nat.not_le.1 below)) fits.descRoom

/-- The flush's turn is the algorithm's flush (R126 to R128). -/
theorem act_div_flush (inBlock : a.count ≤ 65536)
    (fits : SplitFits s (flushSplit s.cfg.maxLitCount.toNat s.cfg.ovfSentinel a)) :
    act .div (s.divided .flush covered toks a) =
      .next (s.divided .emitEnd covered toks (flushSplit s.cfg.maxLitCount.toNat s.cfg.ovfSentinel a)) := by
  have count : (BitVec.ofNat 32 a.count).toNat = a.count := toNat_ofNat_run inBlock
  have nonzero (busy : a.count ≠ 0) : BitVec.ofNat 32 a.count ≠ 0 := fun zero => busy (by rw [← count, zero]; rfl)
  obtain ⟨empty, e⟩ | ⟨busy, ceiling, e⟩ | ⟨busy, other, e⟩ :=
    flushSplit_cases s.cfg.maxLitCount.toNat s.cfg.ovfSentinel a <;> rw [e] at fits ⊢
  · have zero : (s.divided .flush covered toks a).div.litCount = 0 := congrArg (BitVec.ofNat 32) empty
    exact (divTurn_flush_of_ready rfl (.inl zero)).trans (congrArg _ (flushEffect_of_empty zero))
  · refine (divTurn_flush_of_ready (s := s.divided _ _ _ a) rfl (.inr fits.descRoom)).trans (congrArg _ ?_)
    refine (flushEffect_of_ceiling (nonzero busy) (BitVec.eq_of_toNat_eq (count.trans ceiling))).trans ?_
    simp only [State.divided, ← List.append_assoc]
    rfl
  · refine (divTurn_flush_of_ready (s := s.divided _ _ _ a) rfl (.inr fits.descRoom)).trans (congrArg _ ?_)
    refine (flushEffect_of_ne (nonzero busy) fun full => other (count.symm.trans (congrArg BitVec.toNat full))).trans ?_
    simp only [State.divided, ← List.append_assoc]
    rfl

/-- The last turn sends END and publishes the flag (R129). -/
theorem act_div_end (fits : SplitFits s { a with descs := a.descs ++ [0] }) :
    act .div (s.divided .emitEnd covered toks a) =
      .next ((s.divided .done covered toks { a with descs := a.descs ++ [0] }).withFlag a.ovf) := by
  refine (divTurn_emitEnd_of_room (s := s.divided _ _ _ a) rfl fits.descRoom).trans (congrArg _ ?_)
  simp only [State.divided, ← List.append_assoc]
  rfl

/-- DIV's run over the tokens of a parse, by induction on them: the algorithm's walk, one turn per token (R132, R301). -/
theorem runAgent_tokens {ts rest : List Word} (bound : s.div.n.toNat ≤ 65536) (counted : a.count ≤ covered)
    (legal : ts.all legalToken = true) (inside : covered + coverage ts ≤ s.div.n.toNat)
    (fits : SplitFits s (ts.foldl (splitToken s.cfg.maxLitCount.toNat) a)) :
    runAgent .div ts.length (s.walked covered (ts ++ rest) a) =
      .next (s.walked (covered + coverage ts) rest (ts.foldl (splitToken s.cfg.maxLitCount.toNat) a)) := by
  induction ts generalizing covered a with
  | nil => rfl
  | cons t ts ih =>
    rw [List.all_cons, Bool.and_eq_true] at legal
    rw [coverage_cons, ← Nat.add_assoc] at inside ⊢
    have turn := act_div_token (toks := ts ++ rest) bound counted legal.1 ((Nat.le_add_right _ _).trans inside)
      (SplitFits.of_foldl (ts := ts) fits)
    have counted' := (count_splitToken_le s.cfg.maxLitCount.toNat a t).trans (Nat.add_le_add_right counted _)
    exact (runAgent_succ turn).trans (ih counted' legal.2 inside fits)

end products

/-- At the start of a block the algorithm has produced nothing (R120). -/
theorem divided_empty {s : State} {toks : List Word} (st : s.div.st = .readToken) (pos : s.div.pos = 0)
    (count : s.div.litCount = 0) (ovf : s.div.ovf = false) (tok : s.mem.tok = toks) :
    s.divided .readToken 0 toks Split.empty = s := by
  obtain ⟨⟨⟩, _, _, ⟨⟩⟩ := s
  subst st pos count ovf tok
  simp [State.divided, Split.empty]

/-- Settles O37: the walk over the tokens, then the flush's turn and END's. -/
theorem dividerRunsTheAlgorithm : Obligations.DividerRunsTheAlgorithm := by
  intro s ts rest st pos count ovf nonempty legal covered bound tok litRoom descRoom
  have fits : SplitFits s (divideBlock s.cfg ts) := ⟨litRoom, descRoom⟩
  have flushFits :
      SplitFits s (flushSplit s.cfg.maxLitCount.toNat s.cfg.ovfSentinel (splitTokens s.cfg.maxLitCount.toNat ts)) :=
    fits.of_sublist (List.Sublist.refl _) (List.sublist_append_left _ _)
  have positive : 0 < s.div.n.toNat := covered ▸ coverage_pos nonempty legal
  have start : s.walked 0 (ts ++ rest) Split.empty = s := by
    rw [State.walked, walkEnd_of_lt positive]
    exact divided_empty st pos count ovf tok
  have walk := runAgent_tokens (rest := rest) bound (Nat.zero_le 0) legal (by omega) flushFits.of_flushSplit
  rw [start, Nat.zero_add, State.walked, walkEnd_of_eq covered] at walk
  have inBlock := (count_splitTokens_le s.cfg.maxLitCount.toNat ts).trans (covered.trans_le bound)
  have flush := act_div_flush (covered := coverage ts) (toks := rest) inBlock flushFits
  have finish := act_div_end (covered := coverage ts) (toks := rest) fits
  have final : BitVec.ofNat 32 (coverage ts) = s.div.n := by rw [covered, BitVec.ofNat_toNat, BitVec.setWidth_eq]
  rw [runAgent_add walk]
  exact ⟨_, (runAgent_succ flush).trans (runAgent_succ finish), rfl, final, rfl, rfl, rfl, rfl, rfl, rfl⟩

/-! ### The empty block (R130, R161 to R163) -/

/-- DIV goes straight to the end of an empty block (R120). -/
theorem divStart_zero (d : Divider) :
    divStart 0 d = { d with n := 0, pos := 0, litCount := 0, ovf := false, st := .emitEnd } := by
  simp [divStart]

/-- ENC goes to the empty block's size (R160). -/
theorem encStart_zero (e : Encoder) : encStart 0 e = { e with n := 0, size := 0, st := .emptySize } := by
  simp [encStart]

section emptyBlock
variable {s : State}

/-- ENC reports the size 0 (R161). -/
theorem act_enc_emptySize (st : s.enc.st = .emptySize) (room : s.mem.size.length < s.cfg.sizeDepth) :
    act .enc s = .next (emptySizeEffect s) := by
  have turn : act .enc s = fire s.sizeRoom (emptySizeEffect s) s := by simp only [act, encTurn, st]
  exact turn.trans (fire_of_ready ((State.sizeRoom_iff s).2 room))

/-- ENC emits the terminator byte (R162). -/
theorem act_enc_emptyTerm (st : s.enc.st = .emptyTerm) (room : s.mem.out.length < s.cfg.outDepth) :
    act .enc s = .next (emptyTermEffect s) := by
  have turn : act .enc s = fire s.outRoom (emptyTermEffect s) s := by simp only [act, encTurn, st]
  exact turn.trans (fire_of_ready ((State.outRoom_iff s).2 room))

/-- ENC takes the empty block's END (R163). -/
theorem act_enc_discard {ds : List DWord} (st : s.enc.st = .emptyDiscard) (desc : s.mem.desc = 0 :: ds) :
    act .enc s = .next { s with mem := { s.mem with desc := ds }, enc := { s.enc with st := .done } } := by
  rw [act, encTurn_descriptor (.inr st) desc, if_pos rfl]
  exact execEndDesc_of_emptyDiscard st desc

/-- ENC's three turns for an empty block (R301). -/
theorem runAgent_emptyBlock {ds : List DWord} (st : s.enc.st = .emptySize) (desc : s.mem.desc = 0 :: ds)
    (outRoom : s.mem.out.length < s.cfg.outDepth) (sizeRoom : s.mem.size.length < s.cfg.sizeDepth) :
    runAgent .enc 3 s = .next { s with
      mem := { s.mem with desc := ds, out := s.mem.out ++ [s.cfg.terminatorByte], size := s.mem.size ++ [0] }
      enc := { s.enc with st := .done } } :=
  calc runAgent .enc 3 s
    _ = runAgent .enc 2 (emptySizeEffect s) := runAgent_succ (act_enc_emptySize st sizeRoom)
    _ = runAgent .enc 1 (emptyTermEffect (emptySizeEffect s)) := runAgent_succ (act_enc_emptyTerm rfl outRoom)
    _ = _ := runAgent_succ (act_enc_discard rfl desc)

end emptyBlock

/-- Settles O42: START, DIV's END, then ENC's size, terminator and END. -/
theorem emptyBlockRun : Obligations.EmptyBlockRun := by
  intro s allowed accepted noDesc outRoom
  obtain ⟨_, _, noSize, _⟩ := (startAllowed_iff s).1 allowed
  obtain ⟨_, _, _, _, descDepth, _, sizeDepth⟩ := (configAccepted_iff s.cfg).1 accepted
  have descRoom : s.mem.desc.length < s.cfg.descDepth := by rw [noDesc]; exact descDepth
  have sizeRoom : s.mem.size.length < s.cfg.sizeDepth := by rw [noSize]; exact sizeDepth
  have ending : (startEffect 0 s).div.st = .emitEnd := congrArg Divider.st (divStart_zero s.div)
  have sizing : (emitEndEffect (startEffect 0 s)).enc.st = .emptySize := congrArg Encoder.st (encStart_zero s.enc)
  have onDesc : (emitEndEffect (startEffect 0 s)).mem.desc = [0] := congrArg (· ++ [0]) noDesc
  refine ⟨_, _, _, exec_start_of_allowed 0 allowed accepted, runAgent_succ (divTurn_emitEnd_of_room ending descRoom),
    runAgent_emptyBlock sizing onDesc outRoom sizeRoom, rfl, ?_, rfl, rfl, ?_⟩
  · exact congrArg Divider.ovf (divStart_zero s.div)
  · rw [← noDesc]
    rfl

end Sys2Proof.Machine
end

section
/-! PROOFS, the statements of 41_encoder.md on one turn of ENC and on one record. A turn that takes a descriptor (R163, R164), the
turns on SIZE and the terminator byte (R161, R162, R172), the six turns that emit a byte of a record (R165 to R171, R181), and the
record they emit together (R174). -/

namespace Sys2Proof.Machine

section turns
variable {s : State}

/-! ### Turns that take a descriptor (R163, R164) -/

/-- With DESC empty ENC waits (R264). -/
theorem encTurn_of_no_desc (st : s.enc.st = .readDescriptor ∨ s.enc.st = .emptyDiscard) (empty : s.mem.desc = []) :
    encTurn s = .next s := by
  have noWord : nextDesc s = none := by rw [nextDesc, empty]; rfl
  obtain st | st := st <;> rw [encTurn, st, noWord] <;> rfl

/-- R163: any other word than END faults ENC where an empty block's END was expected. -/
theorem encTurn_notSentinel {d : DWord} {rest : List DWord} (st : s.enc.st = .emptyDiscard) (desc : s.mem.desc = d :: rest)
    (nonzero : d ≠ 0) :
    encTurn s = .next { s with
      mem := { s.mem with desc := rest }
      enc := { s.enc with st := .fault, fault := some (.emptyNotSentinel d) } } := by
  have fields : s.mem.desc = pack (descL d) (descML d) (descOFF d) :: rest := by rw [pack_fields, desc]
  rw [encTurn_descriptor (.inr st) desc, if_neg nonzero, takeDescriptor_of_emptyDiscard st fields, pack_fields]

/-! ### What a turn on OUT or SIZE comes to (R61, R264) -/

theorem fire_outRoom_of_full (full : s.cfg.outDepth ≤ s.mem.out.length) (after : State) :
    fire s.outRoom after s = .next s :=
  fire_of_not_ready fun room => Nat.not_lt.2 full ((State.outRoom_iff s).1 room)

theorem fire_sizeRoom_of_full (full : s.cfg.sizeDepth ≤ s.mem.size.length) (after : State) :
    fire s.sizeRoom after s = .next s :=
  fire_of_not_ready fun room => Nat.not_lt.2 full ((State.sizeRoom_iff s).1 room)

/-- `enc.size` is at its limit (R181). -/
theorem size_eq_allOnes_iff : s.enc.size = BitVec.allOnes 32 ↔ s.enc.size.toNat = 2 ^ 32 - 1 := by
  rw [← BitVec.toNat_inj, BitVec.toNat_allOnes]

/-- A byte is emitted with room on OUT and the size below its limit (R165). -/
theorem fire_emit_of_room (room : s.mem.out.length < s.cfg.outDepth) (below : s.enc.size.toNat < 2 ^ 32 - 1)
    (b : Byte) (m : Memory) (e : Encoder) :
    fire s.outRoom (emit b m e s) s =
      .next { s with mem := { m with out := m.out ++ [b] }, enc := { e with size := s.enc.size + 1 } } := by
  have notFull : s.enc.size ≠ BitVec.allOnes 32 := fun full => below.ne (size_eq_allOnes_iff.1 full)
  rw [(State.outRoom_iff s).2 room, fire_true, emit_of_ne notFull]
  rfl

/-- At its limit the size faults ENC instead, whatever the byte (R181). -/
theorem fire_emit_of_limit (room : s.mem.out.length < s.cfg.outDepth) (limit : s.enc.size.toNat = 2 ^ 32 - 1)
    (b : Byte) (m : Memory) (e : Encoder) :
    fire s.outRoom (emit b m e s) s =
      .next { s with enc := { s.enc with st := .fault, fault := some (.sizeOverflow s.enc.st) } } := by
  rw [(State.outRoom_iff s).2 room, fire_true, emit_of_eq (size_eq_allOnes_iff.2 limit)]
  rfl

/-! ### The turns by ENC's state (R161 to R172) -/

theorem encTurn_emptySize (st : s.enc.st = .emptySize) : encTurn s = fire s.sizeRoom (emptySizeEffect s) s := by
  rw [encTurn, st]

theorem encTurn_emptyTerm (st : s.enc.st = .emptyTerm) : encTurn s = fire s.outRoom (emptyTermEffect s) s := by
  rw [encTurn, st]

theorem encTurn_tokenByte (st : s.enc.st = .emitTokenByte) : encTurn s = fire s.outRoom (tokenByteEffect s) s := by
  rw [encTurn, st]

theorem encTurn_litLenExt (st : s.enc.st = .emitLitLenExt) : encTurn s = fire s.outRoom (litLenExtEffect s) s := by
  rw [encTurn, st]

theorem encTurn_literalByte (st : s.enc.st = .emitLiteralBytes) : encTurn s = fire s.outRoom (literalByteEffect s) s := by
  rw [encTurn, st]

theorem encTurn_offsetLow (st : s.enc.st = .emitOffsetLow) : encTurn s = fire s.outRoom (offsetLowEffect s) s := by
  rw [encTurn, st]

theorem encTurn_offsetHigh (st : s.enc.st = .emitOffsetHigh) : encTurn s = fire s.outRoom (offsetHighEffect s) s := by
  rw [encTurn, st]

theorem encTurn_matchLenExt (st : s.enc.st = .emitMatchLenExt) : encTurn s = fire s.outRoom (matchLenExtEffect s) s := by
  rw [encTurn, st]

theorem encTurn_writeSize (st : s.enc.st = .writeSize) : encTurn s = fire s.sizeRoom (writeSizeEffect s) s := by
  rw [encTurn, st]

/-! ### The bytes by number -/

/-- R165: the two length codes side by side. -/
theorem tokenByte_eq (L : Word) (ML : Half) :
    tokenByte L ML = BitVec.ofNat 8 (16 * min L.toNat 15 + min ML.toNat 15) := by
  have value : (tokenByte L ML).toNat = 16 * min L.toNat 15 + min ML.toNat 15 := tokenByteCodes L ML
  rw [← value, BitVec.ofNat_toNat, BitVec.setWidth_eq]

/-- R169. -/
theorem offsetLow_eq (OFF : Half) : offsetLow OFF = BitVec.ofNat 8 (OFF.toNat % 256) := by
  apply BitVec.eq_of_toNat_eq
  simp [offsetLow]

/-- R170. -/
theorem offsetHigh_eq (OFF : Half) : offsetHigh OFF = BitVec.ofNat 8 (OFF.toNat / 256) := by
  apply BitVec.eq_of_toNat_eq
  simp [offsetHigh, Nat.shiftRight_eq_div_pow]

/-! ### The registers after a byte -/

/-- R166: the choice by the latched fields. -/
theorem afterLiterals_eq (e : Encoder) :
    afterLiterals e = if e.ML = 0 ∧ e.OFF = 0 then .readDescriptor else .emitOffsetLow := by
  simp only [afterLiterals, isLiteralOnly_iff]

/-- R165: the three ways on, the last of them R166's choice, with the byte counted. -/
theorem afterTokenByte_counted (e : Encoder) (n : Word) :
    { afterTokenByte e with size := n } =
      if 15 ≤ e.L.toNat then { e with rem := e.L - 15, st := .emitLitLenExt, size := n }
      else if 0 < e.L.toNat then { e with litLeft := e.L, st := .emitLiteralBytes, size := n }
      else if e.ML = 0 ∧ e.OFF = 0 then { e with st := .readDescriptor, size := n }
      else { e with st := .emitOffsetLow, size := n } := by
  rw [afterTokenByte, afterLiterals_eq, nibbleMax]
  split_ifs <;> rfl

/-- R170: what the extension bytes of a long match encode. -/
theorem setWidth_sub_nibbleMax {ML : Half} (long : 15 ≤ ML.toNat) :
    ML.setWidth 32 - BitVec.ofNat 32 nibbleMax = BitVec.ofNat 32 (ML.toNat - 15) := by
  have small := ML.isLt
  have wide : (ML.setWidth 32).toNat = ML.toNat := BitVec.toNat_setWidth_of_le (by decide)
  apply BitVec.eq_of_toNat_eq
  rw [BitVec.toNat_sub_of_le (long.trans_eq wide.symm), wide]
  exact (Nat.mod_eq_of_lt (by omega)).symm

/-- R170: the ways on after the high byte, with the byte counted. -/
theorem afterOffsetHigh_counted (e : Encoder) (n : Word) :
    { afterOffsetHigh e with size := n } =
      if 15 ≤ e.ML.toNat then
        { e with rem := BitVec.ofNat 32 (e.ML.toNat - 15), st := .emitMatchLenExt, size := n }
      else { e with st := .readDescriptor, size := n } := by
  by_cases long : 15 ≤ e.ML.toNat
  · rw [afterOffsetHigh, if_pos (show nibbleMax ≤ e.ML.toNat from long), setWidth_sub_nibbleMax long, if_pos long]
  · rw [afterOffsetHigh, if_neg (show ¬ nibbleMax ≤ e.ML.toNat from long), if_neg long]

/-! ### The extension byte, and what the six emitting turns share -/

/-- R167, R171: the extension byte's turn, with a continuation byte or the final one. -/
theorem fire_extByteEffect (room : s.mem.out.length < s.cfg.outDepth) (below : s.enc.size.toNat < 2 ^ 32 - 1)
    (last : Encoder) :
    fire s.outRoom (extByteEffect last s) s =
      if 255 ≤ s.enc.rem.toNat then .next { s with
        mem := { s.mem with out := s.mem.out ++ [0xFF] }
        enc := { s.enc with rem := s.enc.rem - 255, size := s.enc.size + 1 } }
      else .next { s with
        mem := { s.mem with out := s.mem.out ++ [BitVec.ofNat 8 s.enc.rem.toNat] }
        enc := { last with size := s.enc.size + 1 } } := by
  by_cases more : extUnit ≤ s.enc.rem.toNat
  · rw [extByteEffect, if_pos more, fire_emit_of_room room below]
    exact (if_pos more).symm
  · rw [extByteEffect, if_neg more, fire_emit_of_room room below, BitVec.ofNat_toNat]
    exact (if_neg more).symm

/-- An extension byte's turn emits one byte. -/
theorem extByteEffect_emits (last : Encoder) (s : State) : ∃ b m e, extByteEffect last s = emit b m e s := by
  unfold extByteEffect
  split <;> exact ⟨_, _, _, rfl⟩

/-- Every emitting state's turn emits one byte, the literal's with a byte on LIT. -/
theorem encTurn_emits
    (emitting : s.enc.st = .emitTokenByte ∨ s.enc.st = .emitLitLenExt ∨ (s.enc.st = .emitLiteralBytes ∧ s.mem.lit ≠ []) ∨
      s.enc.st = .emitOffsetLow ∨ s.enc.st = .emitOffsetHigh ∨ s.enc.st = .emitMatchLenExt) :
    ∃ b m e, encTurn s = fire s.outRoom (emit b m e s) s := by
  obtain st | st | ⟨st, lit⟩ | st | st | st := emitting
  · exact ⟨_, _, _, encTurn_tokenByte st⟩
  · obtain ⟨b, m, e, emits⟩ := extByteEffect_emits _ s
    exact ⟨b, m, e, emits ▸ encTurn_litLenExt st⟩
  · obtain ⟨b, rest, lit⟩ := List.exists_cons_of_ne_nil lit
    exact ⟨_, _, _, literalByteEffect_of_cons lit ▸ encTurn_literalByte st⟩
  · exact ⟨_, _, _, encTurn_offsetLow st⟩
  · exact ⟨_, _, _, encTurn_offsetHigh st⟩
  · obtain ⟨b, m, e, emits⟩ := extByteEffect_emits _ s
    exact ⟨b, m, e, emits ▸ encTurn_matchLenExt st⟩

end turns

/-! ### The statements on one turn -/

/-- Settles O18: END, another word, and the wait. -/
theorem readDescriptorStep : Obligations.ReadDescriptorStep := by
  refine fun s st => ⟨fun d rest desc => ?_, encTurn_of_no_desc (.inl st)⟩
  by_cases zero : d = 0
  · subst zero
    exact act_enc_end st desc
  · have bits : d.toNat ≠ 0 := BitVec.toNat_ne_iff_ne.2 zero
    rw [if_neg bits]
    refine (act_enc_latch st desc zero).trans ?_
    rw [show rest = s.mem.desc.tail by rw [desc]; rfl]
    rfl

/-- Settles O19: END, the fault, and the wait. -/
theorem emptyDiscardStep : Obligations.EmptyDiscardStep := by
  refine fun s st => ⟨fun d rest desc => ?_, encTurn_of_no_desc (.inr st)⟩
  by_cases zero : d = 0
  · subst zero
    exact act_enc_discard st desc
  · have bits : d.toNat ≠ 0 := BitVec.toNat_ne_iff_ne.2 zero
    rw [if_neg bits]
    exact encTurn_notSentinel st desc zero

/-- Settles O21: the size, then the terminator byte. -/
theorem emptyBlockOutputSteps : Obligations.EmptyBlockOutputSteps := by
  refine fun s => ⟨fun st => ⟨act_enc_emptySize st, fun full => ?_⟩, fun st => ⟨act_enc_emptyTerm st, fun full => ?_⟩⟩
  · rw [encTurn_emptySize st, fire_sizeRoom_of_full full]
  · rw [encTurn_emptyTerm st, fire_outRoom_of_full full]

/-- Settles O22: the byte by its codes, and the registers R165 leaves. -/
theorem tokenByteStep : Obligations.TokenByteStep := by
  intro s st
  rw [encTurn_tokenByte st]
  refine ⟨fun full => fire_outRoom_of_full full _, fun room below => ?_⟩
  rw [tokenByteEffect, fire_emit_of_room room below, tokenByte_eq, afterTokenByte_counted]

/-- Settles O23: the extension byte, after whose last the literals follow. -/
theorem literalLengthExtensionStep : Obligations.LiteralLengthExtensionStep := by
  intro s st
  rw [encTurn_litLenExt st]
  exact ⟨fun full => fire_outRoom_of_full full _, fun room below => fire_extByteEffect room below _⟩

/-- Settles O24: the byte is LIT's head, and after the last one R166 chooses. -/
theorem literalByteStep : Obligations.LiteralByteStep := by
  intro s st
  rw [encTurn_literalByte st]
  refine ⟨fun full => fire_outRoom_of_full full _, fun empty => ?_, fun b rest lit room below => ?_⟩
  · rw [literalByteEffect, empty, fire, ite_self]
  · rw [literalByteEffect_of_cons lit, fire_emit_of_room room below, afterLiteralByte, afterLiterals_eq, ite_not,
      show rest = s.mem.lit.tail by rw [lit]; rfl]
    rfl

/-- Settles O25: the low byte, then the high byte with R170's choice. -/
theorem offsetByteSteps : Obligations.OffsetByteSteps := by
  rintro s (st | st)
  · rw [encTurn_offsetLow st, if_pos st]
    refine ⟨fun full => fire_outRoom_of_full full _, fun room below => ?_⟩
    rw [offsetLowEffect, fire_emit_of_room room below, offsetLow_eq]
  · rw [encTurn_offsetHigh st, if_neg (by simp [st])]
    refine ⟨fun full => fire_outRoom_of_full full _, fun room below => ?_⟩
    rw [offsetHighEffect, fire_emit_of_room room below, offsetHigh_eq, afterOffsetHigh_counted]

/-- Settles O26: the extension byte, after whose last the record is complete. -/
theorem matchLengthExtensionStep : Obligations.MatchLengthExtensionStep := by
  intro s st
  rw [encTurn_matchLenExt st]
  exact ⟨fun full => fire_outRoom_of_full full _, fun room below => fire_extByteEffect room below _⟩

/-- Settles O27: the size with room on SIZE, and the wait. -/
theorem writeSizeStep : Obligations.WriteSizeStep := by
  refine fun s st => ⟨act_enc_writeSize st, fun full => ?_⟩
  rw [encTurn_writeSize st, fire_sizeRoom_of_full full]

/-- Settles O28: each of the six turns emits a byte, and at the limit that faults. -/
theorem sizeOverflowFaults : Obligations.SizeOverflowFaults := by
  intro s limit room emitting
  obtain ⟨b, m, e, turn⟩ := encTurn_emits emitting
  rw [turn, fire_emit_of_limit room limit]

/-! ### The record (R174) -/

/-- Settles O35: the turn that latches the descriptor, then the record's bytes. -/
theorem recordEmission : Obligations.RecordEmission := by
  intro s L ML OFF lits litRest descRest st desc notEnd onLit count outRoom sizeFits
  have nonzero : pack L ML OFF ≠ 0 := mt pack_eq_zero.1 notEnd
  have whole : recordOf (pack L ML OFF) lits = record L ML OFF lits := by simp [recordOf]
  have room : HasRoom (record L ML OFF lits).length s := ⟨outRoom, sizeFits⟩
  rw [Nat.add_comm 1]
  constructor
  · obtain ⟨e, run, st', size⟩ :=
      runAgent_record st desc nonzero onLit (by rw [count, descL_pack]) (by rwa [whole])
    rw [whole] at run size
    exact ⟨_, run, st', rfl, size, rfl, rfl, rfl, rfl⟩
  · intro k positive before
    obtain ⟨j, rfl⟩ := Nat.exists_eq_succ_of_ne_zero positive.ne'
    have latch := act_enc_latch st desc nonzero
    rw [descL_pack, descML_pack, descOFF_pack] at latch
    rw [runAgent_succ latch]
    exact (Emits.of_latchEffect ML OFF count onLit).inside_until room (Nat.lt_of_succ_lt_succ before)

end Sys2Proof.Machine
end

section
/-! PROOFS, the statements of 42_pipeline_and_host.md on the host and the scheduler: the read of OVF_FLAG (R225), the partition
and the size table (R227 to R230), and the end of a block (R226). -/

namespace Sys2Proof.Machine

open Sys2Proof.Safety

/-- Settles O31: by whether the read comes in DIV_DONE. -/
theorem flagRead : Obligations.FlagRead := by
  intro s
  by_cases done : s.div.st = .done
  · simp [runCommand, readFlag, State.withEnv, done]
  · simp [runCommand, readFlag, State.withEnv, done]

/-! ### Blocks of an input (R227) -/

/-- The first `k` blocks cover the first `k * MAX_BLOCK` bytes, as far as the input goes. -/
theorem sum_blockLength (N k : Nat) : ((List.range k).map (blockLength N)).sum = min N (k * maxBlock) := by
  induction k with
  | zero => simp
  | succ k ih =>
    rw [List.range_succ, List.map_append, List.sum_append, ih, List.map_singleton, List.sum_singleton, blockLength,
      Nat.succ_mul]
    omega

/-- A block is one of the input's exactly if a byte of the input is left for it. -/
theorem lt_numBlocks_iff (N i : Nat) : i < numBlocks N ↔ i * maxBlock < N := by
  simp only [numBlocks, maxBlock]
  omega

/-- Settles O33: the number of blocks says which blocks have a byte, and the block after the last has none. -/
theorem partition : Obligations.Partition := by
  intro N
  refine ⟨?_, ?_, fun i inside => ?_, fun i inside => ?_⟩
  · simp only [numBlocks, maxBlock]
    split <;> omega
  · have covered := (lt_numBlocks_iff N (numBlocks N)).not.1 (Nat.lt_irrefl _)
    rw [sum_blockLength, Nat.min_eq_left (Nat.not_lt.1 covered)]
  · rw [lt_numBlocks_iff] at inside
    simp only [blockLength, maxBlock] at inside ⊢
    omega
  · rw [lt_numBlocks_iff] at inside
    simp only [blockLength, maxBlock] at inside ⊢
    omega

/-- Settles O34: the table is a map over the block numbers, and each entry's value is the priority of R229. -/
theorem sizeTable : Obligations.SizeTable := by
  intro c N reports
  refine ⟨by simp [perBlockSize], fun i inside r reported => ?_⟩
  have own : reports.getD i ⟨false, 0⟩ = r := by rw [List.getD_eq_getElem?_getD, reported, Option.getD_some]
  simp only [perBlockSize, List.getElem?_map, List.getElem?_range inside, Option.map_some, own, resolvedSize, isSmall,
    decide_eq_true_eq]

/-! ### The end of a block (R226) -/

/-- Settles O52: the invariant does not read SIZE or the host's read of the flag, and once both are taken START is allowed. -/
theorem finishedBlockLeavesNoData : Obligations.FinishedBlockLeavesNoData := by
  intro s inv div enc
  have taken : PipelineInv { s with mem := { s.mem with size := [] }, env := { s.env with flagRead := true } } :=
    inv.congr rfl rfl rfl rfl rfl rfl rfl
  exact taken.streams_empty ((startAllowed_iff _).2 ⟨.inr div, .inr enc, rfl, rfl⟩)

end Sys2Proof.Machine
end

section
/-! PROOFS, the statement of 42_pipeline_and_host.md on the round trip (R235). The reader finds the records of the block's
words, because only the last can be literal-only (R92, R135). Undoing the records of the words sent so far, and then the run
still open, gives the bytes the tokens read so far cover: one token, then an induction over the tokens. -/

namespace Sys2Proof.Machine

open Sys2Proof.Safety

/-! ### Reading the records (R92) -/

/-- What a reader finds in the record of a word with these literals (R90). -/
def readOf (d : DWord) (lits : List Byte) : RecordRead :=
  ⟨lits, if isLiteralOnly (descML d) (descOFF d) then none else some ((descML d).toNat, (descOFF d).toNat)⟩

theorem blockRecords_cons {d : DWord} (nonzero : d ≠ 0) (ds : List DWord) (lits : List Byte) :
    blockRecords (d :: ds) lits =
      readOf d (lits.take (descL d).toNat) :: blockRecords ds (lits.drop (descL d).toNat) := if_neg nonzero

theorem encodeDescs_cons {d : DWord} (nonzero : d ≠ 0) (ds : List DWord) (lits : List Byte) :
    encodeDescs (d :: ds) lits =
      recordOf d (lits.take (descL d).toNat) ++ encodeDescs ds (lits.drop (descL d).toNat) := if_neg nonzero

/-- One record is read off the front; nothing may follow a literal-only one. -/
theorem parseRecords_recordOf {d : DWord} {lits rest : List Byte} (count : lits.length = (descL d).toNat)
    (last : descML d = 0 ∧ descOFF d = 0 → rest = []) (fuel : Nat) :
    parseRecords (fuel + 1) (recordOf d lits ++ rest) = (parseRecords fuel rest).map (readOf d lits :: ·) := by
  have read : readRecord (recordOf d lits ++ rest) = some (readOf d lits, rest) := by
    simpa only [readOf, recordOf, isLiteralOnly_iff] using (readerRecoversRecord _ _ _ lits rest count last).2
  simp only [recordOf, record, List.append_assoc, List.cons_append, List.nil_append] at read ⊢
  simp only [parseRecords, read]
  cases parseRecords fuel rest <;> rfl

/-- A word after a literal-only one is END. -/
def LiteralOnlyLast (ds : List DWord) : Prop := ds.Pairwise fun d e => descML d = 0 ∧ descOFF d = 0 → e = 0

theorem encodeDescs_of_ends {ds : List DWord} (ends : ∀ e ∈ ds, e = 0) (lits : List Byte) : encodeDescs ds lits = [] := by
  cases ds with
  | nil => rfl
  | cons d ds => exact if_pos (ends d List.mem_cons_self)

/-- Every record has its token byte. -/
theorem length_recordOf_pos (d : DWord) (lits : List Byte) : 0 < (recordOf d lits).length := by
  rw [recordOf, record, List.append_assoc, List.append_assoc, List.singleton_append, List.length_cons]
  exact Nat.succ_pos _

/-- The reader finds the records of a block's words, given a unit of fuel per byte. -/
theorem parseRecords_encodeDescs {ds : List DWord} {lits : List Byte} {fuel : Nat} (last : LiteralOnlyLast ds)
    (count : runsIn ds ≤ lits.length) (enough : (encodeDescs ds lits).length ≤ fuel) :
    parseRecords fuel (encodeDescs ds lits) = some (blockRecords ds lits) := by
  induction ds generalizing lits fuel with
  | nil => rw [encodeDescs, parseRecords]; rfl
  | cons d ds ih =>
    by_cases zero : d = 0
    · rw [encodeDescs, blockRecords, if_pos zero, if_pos zero, parseRecords]
    obtain ⟨others, last⟩ := List.pairwise_cons.1 last
    rw [runsIn_cons] at count
    have positive := length_recordOf_pos d (lits.take (descL d).toNat)
    rw [encodeDescs_cons zero, List.length_append] at enough
    obtain ⟨fuel, rfl⟩ : ∃ k, fuel = k + 1 := Nat.exists_eq_succ_of_ne_zero (by omega)
    rw [encodeDescs_cons zero, blockRecords_cons zero,
      parseRecords_recordOf (List.length_take_of_le (by omega)) fun only =>
        encodeDescs_of_ends (fun e member => others e member only) _,
      ih last (by rw [List.length_drop]; omega) (by omega), Option.map_some]

/-- The words of a block are matches, at most one trailing word, and END (R135). -/
theorem literalOnlyLast_divideBlock (c : Config) {ts : List Word} (legal : ts.all legalToken = true)
    (inBlock : coverage ts ≤ 65536) : LiteralOnlyLast (divideBlock c ts).descs := by
  obtain ⟨ms, trail, words, isMatch, shape⟩ := descriptorStreamShape c ts legal inBlock
  have ending : LiteralOnlyLast (trail ++ [0]) := by
    obtain rfl | ⟨L, _, _, rfl⟩ | ⟨_, rfl⟩ := shape <;> simp [LiteralOnlyLast]
  rw [words, List.append_assoc]
  have notOnly {d : DWord} (member : d ∈ ms) : ¬ (descML d = 0 ∧ descOFF d = 0) := fun ⟨_, zero⟩ => by
    have near := (isMatch d member).1
    rw [zero] at near
    exact absurd near (by decide)
  refine List.pairwise_append.2 ⟨?_, ending, fun d member e _ only => absurd only (notOnly member)⟩
  exact List.pairwise_of_forall_mem_list fun d member e _ only => absurd only (notOnly member)

/-! ### Undoing the records -/

theorem replayAll_append (acc : List Byte) (rs rs' : List RecordRead) :
    replayAll acc (rs ++ rs') = (replayAll acc rs).bind (replayAll · rs') := by
  induction rs generalizing acc with
  | nil => rfl
  | cons r rs ih =>
    rw [List.cons_append, replayAll, replayAll]
    cases replay acc r with
    | none => rfl
    | some acc' => exact ih acc'

/-- The records of a list of words are found in order, each from where the runs before it end. -/
theorem blockRecords_append {ds : List DWord} (noEnd : 0 ∉ ds) (es : List DWord) (lits : List Byte) :
    blockRecords (ds ++ es) lits = blockRecords ds lits ++ blockRecords es (lits.drop (runsIn ds)) := by
  induction ds generalizing lits with
  | nil => rfl
  | cons d ds ih =>
    obtain ⟨nonzero, noEnd⟩ := List.ne_and_not_mem_of_not_mem_cons noEnd
    rw [List.cons_append, blockRecords_cons nonzero.symm, blockRecords_cons nonzero.symm, ih noEnd, List.drop_drop,
      runsIn_cons, List.cons_append]

/-- Literals after the runs of the words are not read. -/
theorem blockRecords_append_lits {ds : List DWord} {lits : List Byte} (count : runsIn ds ≤ lits.length)
    (more : List Byte) : blockRecords ds (lits ++ more) = blockRecords ds lits := by
  induction ds generalizing lits with
  | nil => rfl
  | cons d ds ih =>
    by_cases zero : d = 0
    · rw [blockRecords, blockRecords, if_pos zero, if_pos zero]
    rw [runsIn_cons] at count
    rw [blockRecords_cons zero, blockRecords_cons zero, List.take_append_of_le_length (by omega),
      List.drop_append_of_le_length (by omega), ih (by rw [List.length_drop]; omega)]

/-- Copying from `off` back extends the block's text where its bytes repeat at that distance (R222 item 3). -/
theorem copyBack_take {block : List Byte} {off n pos : Nat} (near : 1 ≤ off) (inside : off ≤ pos)
    (fits : pos + n ≤ block.length) (repeats : ∀ k < n, block[pos + k]? = block[pos + k - off]?) :
    copyBack off n (block.take pos) = block.take (pos + n) := by
  induction n generalizing pos with
  | zero => rfl
  | succ n ih =>
    have length : (block.take pos).length = pos := List.length_take_of_le (by omega)
    have byte : (block.take pos).getD (pos - off) 0 = block[pos] := by
      have earlier : block[pos]? = block[pos - off]? := repeats 0 n.succ_pos
      rw [List.getD_eq_getElem?_getD, List.getElem?_take_of_lt (by omega), ← earlier, List.getElem?_eq_getElem (by omega),
        Option.getD_some]
    have grown : block.take pos ++ [block[pos]] = block.take (pos + 1) := List.take_concat_get' block pos (by omega)
    rw [copyBack, length, byte, grown, ih (by omega) (by omega) fun k below => ?_]
    · rw [Nat.add_assoc, Nat.add_comm 1 n]
    · simpa only [Nat.add_assoc, Nat.add_comm 1 k] using repeats (k + 1) (Nat.succ_lt_succ below)

/-! ### The text of what has been sent -/

/-- The bytes that the words and literals of a block stand for so far: the words' records undone, then the run still open. -/
def textOf (ds : List DWord) (lits : List Byte) : Option (List Byte) :=
  (replayAll [] (blockRecords ds lits)).map (· ++ lits.drop (runsIn ds))

/-- A literal adds its byte to the open run. -/
theorem textOf_lit {ds : List DWord} {lits : List Byte} (runs : runsIn ds ≤ lits.length) (ch : Byte) :
    textOf ds (lits ++ [ch]) = (textOf ds lits).map (· ++ [ch]) := by
  simp only [textOf, blockRecords_append_lits runs, List.drop_append_of_le_length runs, Option.map_map]
  congr 1
  funext acc
  exact (List.append_assoc _ _ _).symm

/-- The literals of a record come before its match. -/
theorem replay_lits (acc : List Byte) (d : DWord) (lits : List Byte) :
    replay acc (readOf d lits) = replay (acc ++ lits) (readOf d []) := by
  cases only : isLiteralOnly (descML d) (descOFF d) <;> simp [replay, readOf, only]

theorem replayAll_singleton (acc : List Byte) (r : RecordRead) : replayAll acc [r] = replay acc r := by
  rw [replayAll]
  cases replay acc r <;> rfl

/-- A word whose run is the whole open run closes it: its match is undone after the text so far. -/
theorem textOf_word {ds : List DWord} {d : DWord} {lits : List Byte} (noEnd : 0 ∉ ds) (nonzero : d ≠ 0)
    (closes : runsIn ds + (descL d).toNat = lits.length) :
    textOf (ds ++ [d]) lits = (textOf ds lits).bind (replay · (readOf d [])) := by
  have whole : (lits.drop (runsIn ds)).take (descL d).toNat = lits.drop (runsIn ds) :=
    List.take_of_length_le (by rw [List.length_drop]; omega)
  have records : blockRecords (ds ++ [d]) lits = blockRecords ds lits ++ [readOf d (lits.drop (runsIn ds))] := by
    rw [blockRecords_append noEnd, blockRecords_cons nonzero, whole, blockRecords]
  have noRun : lits.drop (runsIn (ds ++ [d])) = [] := by simp [closes]
  rw [textOf, textOf, records, noRun, replayAll_append]
  cases replayAll [] (blockRecords ds lits) with
  | none => rfl
  | some acc =>
    simp only [Option.bind_some, Option.map_some, replayAll_singleton, replay_lits acc d, List.append_nil, Option.map_id']

/-- A word without a match part adds nothing to the text. -/
theorem replay_literalOnly (acc : List Byte) (L : Word) : replay acc (readOf (pack L 0 0) []) = some acc := by
  simp [replay, readOf, isLiteralOnly]

/-- A match's word copies the bytes its token covers (R84, R122). -/
theorem replay_match {acc : List Byte} (L : Word) {raw : Byte} {off : Half} (long : rawLenOk raw = true) (near : off ≠ 0)
    (inside : off.toNat ≤ acc.length) :
    replay acc (readOf (pack L (matchLengthOf raw) off) []) = some (copyBack off.toNat raw.toNat acc) := by
  have four : 4 ≤ raw.toNat := of_decide_eq_true long
  have small := raw.isLt
  have part : isLiteralOnly (matchLengthOf raw) off = false := decide_eq_false fun only => near only.2
  have rejected : ¬ (off.toNat = 0 ∨ acc.length < off.toNat) := by
    rintro (zero | far)
    · exact near (BitVec.eq_of_toNat_eq zero)
    · omega
  have covered : (matchLengthOf raw).toNat + minMatch = raw.toNat := by
    rw [matchLengthOf_eq four, BitVec.toNat_ofNat, Nat.mod_eq_of_lt (by omega)]
    exact Nat.sub_add_cancel four
  simp only [replay, readOf, descML_pack, descOFF_pack, part, List.append_nil, if_neg rejected, covered, Bool.false_eq_true,
    if_false]

/-! ### Tokens that describe the block (R222 items 2 to 4) -/

/-- One token describes the block's bytes at `pos`. -/
structure Describes (block : List Byte) (pos : Nat) (t : Word) : Prop where
  lit : isLitToken t = true → block[pos]? = some (litChar t)
  copy : isLitToken t = false → (tokOffset t).toNat ≤ pos ∧ pos + covers t ≤ block.length ∧
    ∀ k < covers t, block[pos + k]? = block[pos + k - (tokOffset t).toNat]?

theorem describesFrom_cons {block : List Byte} {pos : Nat} {t : Word} {ts : List Word}
    (described : describesFrom block pos (t :: ts) = true) :
    Describes block pos t ∧ describesFrom block (pos + covers t) ts = true := by
  rw [describesFrom, Bool.and_eq_true] at described
  obtain ⟨own, others⟩ := described
  refine ⟨?_, others⟩
  cases lit : isLitToken t
  · simp only [lit, Bool.false_eq_true, if_false, Bool.and_eq_true, decide_eq_true_eq, List.all_eq_true,
      List.mem_range] at own
    obtain ⟨⟨inside, fits⟩, repeats⟩ := own
    exact ⟨fun isLit => absurd isLit (ne_true_of_eq_false lit), fun _ => ⟨inside, fits, repeats⟩⟩
  · simp only [lit, if_true, decide_eq_true_eq] at own
    exact ⟨fun _ => own, fun notLit => absurd lit (ne_true_of_eq_false notLit)⟩

/-- Each token describes the bytes where the tokens before it end. -/
theorem describes_of_describesFrom {block : List Byte} {pos : Nat} {ts us : List Word} {t : Word}
    (described : describesFrom block pos (ts ++ t :: us) = true) : Describes block (pos + coverage ts) t := by
  induction ts generalizing pos with
  | nil => exact (describesFrom_cons described).1
  | cons u ts ih =>
    rw [coverage_cons, ← Nat.add_assoc]
    exact ih (describesFrom_cons described).2

theorem coverage_of_describesFrom {block : List Byte} {pos : Nat} {ts : List Word}
    (described : describesFrom block pos ts = true) : pos + coverage ts = block.length := by
  induction ts generalizing pos with
  | nil => exact of_decide_eq_true described
  | cons t ts ih =>
    rw [coverage_cons, ← Nat.add_assoc]
    exact ih (describesFrom_cons described).2

/-! ### The text of what the algorithm has produced -/

theorem not_mem_splitTokens (max : Nat) {ts : List Word} (legal : ts.all legalToken = true) :
    0 ∉ (splitTokens max ts).descs := fun member =>
  absurd (isMatchWord_splitTokens max legal 0 member).1 (by decide)

/-- One token below the ceiling adds the bytes it covers to the text. -/
theorem textOf_splitToken {max pos : Nat} {block : List Byte} {a : Split} {t : Word} (legal : legalToken t = true)
    (described : Describes block pos t) (noEnd : 0 ∉ a.descs) (agree : runsIn a.descs + a.count = a.lits.length)
    (inBlock : a.count ≤ 65536) (below : (splitToken max a t).ovf = false)
    (text : textOf a.descs a.lits = some (block.take pos)) :
    textOf (splitToken max a t).descs (splitToken max a t).lits = some (block.take (pos + covers t)) := by
  obtain ⟨lit, e⟩ | ⟨_, _, e⟩ | ⟨lit, _, e⟩ := splitToken_cases max a t <;> rw [e] at below ⊢
  · have runs : runsIn a.descs ≤ a.lits.length := agree ▸ Nat.le_add_right _ _
    rw [textOf_lit runs, text, covers_lit lit, Option.map_some, List.take_add_one, described.lit lit, Option.toList_some]
  · cases below
  · obtain ⟨long, near⟩ := match_of_legalToken legal lit
    obtain ⟨inside, fits, repeats⟩ := described.copy lit
    have nonzero : pack (BitVec.ofNat 32 a.count) (matchLengthOf (rawLen t)) (tokOffset t) ≠ 0 := fun zero =>
      near (pack_eq_zero.1 zero).2.2
    have positive : 1 ≤ (tokOffset t).toNat := Nat.pos_of_ne_zero fun zero => near (BitVec.eq_of_toNat_eq zero)
    rw [textOf_word noEnd nonzero (by rw [descL_pack, toNat_ofNat_run inBlock, agree]), text, Option.bind_some,
      replay_match _ long near (by rw [List.length_take]; omega), ← covers_match lit,
      copyBack_take positive inside fits repeats]

/-- While the flag is false, the tokens read stand for the bytes they cover, by induction on them. -/
theorem textOf_splitTokens {max : Nat} {block : List Byte} {ts : List Word} (us : List Word) (size : block.length ≤ 65536)
    (legal : ts.all legalToken = true) (described : describesFrom block 0 (ts ++ us) = true)
    (flag : (splitTokens max ts).ovf = false) :
    textOf (splitTokens max ts).descs (splitTokens max ts).lits = some (block.take (coverage ts)) := by
  induction ts using List.reverseRecOn generalizing us with
  | nil => rfl
  | append_singleton ts t ih =>
    rw [List.append_assoc, List.singleton_append] at described
    have whole := coverage_of_describesFrom described
    rw [coverage_append, coverage_cons] at whole
    rw [List.all_append, Bool.and_eq_true] at legal
    obtain ⟨legal, last⟩ := legal
    rw [splitTokens_concat] at flag ⊢
    have before : (splitTokens max ts).ovf = false :=
      Bool.eq_false_iff.2 fun raised => Bool.eq_false_iff.1 flag ((ovf_splitToken_iff max _ t).2 (.inl raised))
    rw [coverage_append, coverage_cons, coverage_nil, Nat.add_zero]
    refine textOf_splitToken (by simpa using last) ?_ (not_mem_splitTokens max legal)
      (runsIn_splitTokens max (by omega)) ((count_splitTokens_le max ts).trans (by omega)) flag
      (ih (t :: us) legal described before)
    simpa using describes_of_describesFrom described

/-- The flush of a run other than the ceiling's only closes it. -/
theorem textOf_flushSplit {max : Nat} {sentinel : Half} {a : Split} (noEnd : 0 ∉ a.descs)
    (agree : runsIn a.descs + a.count = a.lits.length) (inBlock : a.count ≤ 65536)
    (below : (flushSplit max sentinel a).ovf = false) :
    textOf (flushSplit max sentinel a).descs (flushSplit max sentinel a).lits = textOf a.descs a.lits := by
  obtain ⟨_, e⟩ | ⟨_, _, e⟩ | ⟨busy, _, e⟩ := flushSplit_cases max sentinel a <;> rw [e] at below ⊢
  · cases below
  · have run := toNat_ofNat_run inBlock
    have nonzero : pack (BitVec.ofNat 32 a.count) 0 0 ≠ 0 := fun zero => by
      rw [(pack_eq_zero.1 zero).1] at run
      exact busy run.symm
    rw [textOf_word noEnd nonzero (by rw [descL_pack, run, agree])]
    cases textOf a.descs a.lits with
    | none => rfl
    | some acc => exact replay_literalOnly acc _

/-- END is no record (R91). -/
theorem blockRecords_end (ds : List DWord) (lits : List Byte) : blockRecords (ds ++ [0]) lits = blockRecords ds lits := by
  induction ds generalizing lits with
  | nil => rfl
  | cons d ds ih => rw [List.cons_append, blockRecords, blockRecords, ih]

/-- With every run closed the text is the records undone. -/
theorem replayAll_of_textOf {ds : List DWord} {lits : List Byte} (closed : runsIn ds = lits.length) :
    replayAll [] (blockRecords ds lits) = textOf ds lits := by
  rw [textOf, closed, List.drop_length]
  simp only [List.append_nil, Option.map_id']

/-- The flush does not lower the flag. -/
theorem ovf_of_flushSplit {max : Nat} {sentinel : Half} {a : Split} (below : (flushSplit max sentinel a).ovf = false) :
    a.ovf = false := by
  obtain ⟨_, e⟩ | ⟨_, _, e⟩ | ⟨_, _, e⟩ := flushSplit_cases max sentinel a <;> rw [e] at below
  · exact below
  · cases below
  · exact below

/-- Undoing the records of a block's words gives the block: the tokens stand for it, and the flush and END add nothing. -/
theorem replayAll_divideBlock {c : Config} {block : List Byte} {ts : List Word} (size : block.length ≤ 65536)
    (legal : ts.all legalToken = true) (described : describesFrom block 0 ts = true) (flag : (divideBlock c ts).ovf = false) :
    replayAll [] (blockRecords (divideBlock c ts).descs (divideBlock c ts).lits) = some block := by
  have whole : coverage ts = block.length := (Nat.zero_add _).symm.trans (coverage_of_describesFrom described)
  have small : coverage ts ≤ 65536 := whole.trans_le size
  have inBlock := (count_splitTokens_le c.maxLitCount.toNat ts).trans small
  have agree := runsIn_splitTokens c.maxLitCount.toNat small
  have closed := (runsIn_flushSplit c.maxLitCount.toNat c.ovfSentinel inBlock).trans agree
  rw [← lits_flushSplit c.maxLitCount.toNat c.ovfSentinel] at closed
  calc replayAll [] (blockRecords (divideBlock c ts).descs (divideBlock c ts).lits)
    _ = replayAll [] (blockRecords (flushSplit c.maxLitCount.toNat c.ovfSentinel (splitTokens c.maxLitCount.toNat ts)).descs
          (divideBlock c ts).lits) := congrArg _ (blockRecords_end _ _)
    _ = _ := replayAll_of_textOf closed
    _ = _ := textOf_flushSplit (not_mem_splitTokens _ legal) agree inBlock flag
    _ = some (block.take (coverage ts)) :=
        textOf_splitTokens [] size legal (by rwa [List.append_nil]) (ovf_of_flushSplit flag)
    _ = some block := by rw [whole, List.take_length]

/-- Settles O41: the reader finds the block's records, and undoing them gives the block. -/
theorem roundTrip : Obligations.RoundTrip := by
  intro accepts c block ts size contract flag output records
  obtain ⟨legal, described⟩ := (Bool.and_eq_true _ _).mp contract
  have small : coverage ts ≤ 65536 :=
    ((Nat.zero_add _).symm.trans (coverage_of_describesFrom described)).trans_le size
  have read : parseRecords output.length output = some records :=
    parseRecords_encodeDescs (literalOnlyLast_divideBlock c legal small) (streamConsistency c ts small).le le_rfl
  have undone : replayAll [] records = some block := replayAll_divideBlock size legal described flag
  constructor
  · intro accepted
    simp only [decodeBlock, read, accepted, if_true, undone]
  · intro refused
    simp only [decodeBlock, read, refused, Bool.false_eq_true, if_false]

end Sys2Proof.Machine
end

section
/-! PROOFS, the statements of 60_exceptions.md. A unit's turn changes nothing exactly if the unit has no enabled step (R264,
R266), and only a reset moves a faulted unit (R263). -/

namespace Sys2Proof.Machine

open Sys2Proof.Safety

/-! ### An enabled step changes the state (R264, R266) -/

/-- Under a guard whose step changes the state, nothing changes exactly if the guard fails. -/
theorem fire_eq_self_iff {ready : Bool} {after before : State} (changes : after ≠ before) :
    fire ready after before = .next before ↔ ready = false := by
  cases ready with
  | false => simp
  | true => simp [changes]

section changes
variable {s t : State}

theorem ne_of_div_st {st : DivState} (before : s.div.st = st) (after : t.div.st ≠ st) : t ≠ s :=
  ne_of_apply_ne (·.div.st) fun same => after (same.trans before)

theorem ne_of_enc_st {st : EncState} (before : s.enc.st = st) (after : t.enc.st ≠ st) : t ≠ s :=
  ne_of_apply_ne (·.enc.st) fun same => after (same.trans before)

/-- A list with a head is not its own tail. -/
theorem tail_ne_of_cons {α : Type} {l rest : List α} {x : α} (cons : l = x :: rest) : l.tail ≠ l := by
  rw [cons]
  exact (List.cons_ne_self x rest).symm

theorem ne_of_popTok {w : Word} {rest : List Word} (tok : s.mem.tok = w :: rest) (popped : t.mem.tok = s.mem.tok.tail) :
    t ≠ s :=
  ne_of_apply_ne (·.mem.tok) fun same => tail_ne_of_cons tok (popped.symm.trans same)

theorem ne_of_popDesc {d : DWord} {rest : List DWord} (desc : s.mem.desc = d :: rest)
    (popped : t.mem.desc = s.mem.desc.tail) : t ≠ s :=
  ne_of_apply_ne (·.mem.desc) fun same => tail_ne_of_cons desc (popped.symm.trans same)

/-- Emitting a byte counts it, or faults ENC (R165, R181). -/
theorem emit_ne_self (running : s.enc.st ≠ .fault) (b : Byte) (m : Memory) (e : Encoder) : emit b m e s ≠ s := by
  by_cases full : s.enc.size = BitVec.allOnes 32
  · rw [emit_of_eq full]
    exact ne_of_enc_st rfl running.symm
  · rw [emit_of_ne full]
    have counted : s.enc.size + 1 ≠ s.enc.size := by simp
    exact ne_of_apply_ne (·.enc.size) counted

theorem st_flushEffect (s : State) : (flushEffect s).div.st = .emitEnd := by
  obtain ⟨_, e⟩ | ⟨_, _, e⟩ | ⟨_, _, e⟩ := flushEffect_cases s <;> rw [e] <;> rfl

end changes

/-! ### A turn of a unit as its enabling condition (R264, R266) -/

/-- With the instruction's word at the head of TOK, its enabling condition is `tokenReady`, and its step pops the word. -/
theorem exec_token_eq_self_iff {i : Instr} {s : State} {w : Word} {rest : List Word} (word : encode s.cfg i = .token w)
    (st : s.div.st = .readToken) (tok : s.mem.tok = w :: rest) : exec i s = .next s ↔ tokenReady s i = false := by
  have head := tokenAtHead_of_cons st tok
  have waits {guard : Bool} {after : State} (popped : after.mem.tok = s.mem.tok.tail) :
      fire guard after s = .next s ↔ guard = false := fire_eq_self_iff (ne_of_popTok tok popped)
  cases i with
  | lit ch off =>
    cases word
    exact (waits rfl).trans (by rw [head, Bool.true_and, tokenReady])
  | badLen1 | badLen23 | matchZeroOff =>
    cases word
    exact (waits rfl).trans (by rw [head, tokenReady])
  | matchTok ch raw off =>
    cases word
    by_cases past : overshoots raw s = true
    · rw [exec, execMatchTok, if_pos past, waits rfl]
      simp [tokenReady, head, past]
    · rw [exec, execMatchTok, if_neg past, waits rfl]
      simp [tokenReady, head, past]
  | matchOvf ch raw off =>
    cases word
    by_cases past : overshoots raw s = true
    · rw [exec, execMatchOvf, if_pos past, waits rfl]
      simp [tokenReady, head, past]
    · rw [exec, execMatchOvf, if_neg past, waits rfl]
      simp [tokenReady, head, past]
  | endDesc | litOnly | ovfSent | matchSeq | start => cases word

theorem divTurn_eq_self_iff (s : State) : divTurn s = .next s ↔ divReady s = false := by
  cases st : s.div.st with
  | idle | done | fault => simp [divTurn, divReady, st]
  | readToken =>
    cases tok : s.mem.tok with
    | nil => simp [divTurn, divReady, st, tok, nextToken, runFetched]
    | cons w rest =>
      have ready : divReady s = tokenReady s (decodeToken (atCeiling s) w) := by simp only [divReady, st, tok]
      rw [divTurn_readToken st tok, ready]
      exact exec_token_eq_self_iff (encode_decodeToken s.cfg _ w) st tok
  | flush =>
    rw [divTurn_flush st, fire_eq_self_iff, divReady, st]
    exact ne_of_div_st st (by rw [st_flushEffect]; nofun)
  | emitEnd =>
    rw [divTurn_emitEnd st, fire_eq_self_iff, divReady, st]
    exact ne_of_div_st st nofun

/-- A word on DESC is taken, whatever it is. -/
theorem encTurn_descriptor_eq_self_iff {s : State} (st : s.enc.st = .readDescriptor ∨ s.enc.st = .emptyDiscard) :
    encTurn s = .next s ↔ s.mem.desc = [] := by
  refine ⟨fun same => ?_, encTurn_of_no_desc st⟩
  by_contra nonempty
  obtain ⟨d, rest, desc⟩ := List.exists_cons_of_ne_nil nonempty
  obtain ⟨e, takes⟩ := encTurn_popDesc st d
  have turn := (takes s rest rfl desc).symm.trans same
  exact ne_of_popDesc desc rfl (Host.Outcome.next.inj turn)

theorem encTurn_eq_self_iff (s : State) : encTurn s = .next s ↔ encReady s = false := by
  have emitting {b : Byte} {m : Memory} {e : Encoder} (running : s.enc.st ≠ .fault)
      (turn : encTurn s = fire s.outRoom (emit b m e s) s) : encTurn s = .next s ↔ s.outRoom = false := by
    rw [turn, fire_eq_self_iff (emit_ne_self running b m e)]
  cases st : s.enc.st with
  | idle | done | fault => simp [encTurn, encReady, st]
  | readDescriptor | emptyDiscard =>
    simp [encTurn_descriptor_eq_self_iff, encReady, st]
  | emptySize =>
    rw [encTurn_emptySize st, fire_eq_self_iff, encReady, st]
    exact ne_of_enc_st st nofun
  | emptyTerm =>
    rw [encTurn_emptyTerm st, fire_eq_self_iff, encReady, st]
    exact ne_of_enc_st st nofun
  | writeSize =>
    rw [encTurn_writeSize st, fire_eq_self_iff, encReady, st]
    exact ne_of_enc_st st nofun
  | emitTokenByte | emitLitLenExt | emitOffsetLow | emitOffsetHigh | emitMatchLenExt =>
    obtain ⟨b, m, e, turn⟩ := encTurn_emits (s := s) (by simp [st])
    rw [emitting (by simp [st]) turn, encReady, st]
  | emitLiteralBytes =>
    by_cases lit : s.mem.lit = []
    · simp [encTurn_literalByte st, literalByteEffect, lit, encReady, st, fire]
    · obtain ⟨b, m, e, turn⟩ := encTurn_emits (s := s) (by simp [st, lit])
      rw [emitting (by simp [st]) turn]
      simp [encReady, st, lit]

/-- Settles O45: each unit's turn by the state it is in. -/
theorem unitsStepExactlyWhenReady : Obligations.UnitsStepExactlyWhenReady := fun s =>
  ⟨divTurn_eq_self_iff s, encTurn_eq_self_iff s⟩

/-! ### A fault is permanent (R263) -/

/-- From `s` to `t` the registers of a faulted unit stay, and the controller still has no reset to give. -/
def FaultStep (s t : State) : Prop :=
  (s.div.st = .fault → t.div = s.div) ∧ (s.enc.st = .fault → t.enc = s.enc) ∧ NoReset t

/-- A step that writes neither unit's registers nor the controller's commands. -/
theorem FaultStep.of_eq {s t : State} (noReset : NoReset s) (div : t.div = s.div) (enc : t.enc = s.enc)
    (cmds : t.env.cmds = s.env.cmds) : FaultStep s t :=
  ⟨fun _ => div, fun _ => enc, by rwa [NoReset, cmds]⟩

theorem HostFrame.faultStep {s t : State} (h : HostFrame s t) (noReset : NoReset s) : FaultStep s t := by
  obtain ⟨_, _, rfl, cmds⟩ := h
  exact .of_eq noReset rfl rfl cmds

theorem FaultStep.of_divTurn {s t : State} (noReset : NoReset s) (h : divTurn s = .next t) : FaultStep s t := by
  obtain ⟨_, _, _, rfl⟩ := (DivStep.of_turn h).frame
  refine ⟨fun faulted => ?_, fun _ => rfl, noReset⟩
  have stays : divTurn s = .next s := by rw [divTurn, faulted]
  exact congrArg State.div (Host.Outcome.next.inj (h.symm.trans stays))

theorem FaultStep.of_encTurn {s t : State} (noReset : NoReset s) (h : encTurn s = .next t) : FaultStep s t := by
  obtain ⟨_, _, rfl⟩ := (EncStep.of_turn h).frame
  refine ⟨fun _ => rfl, fun faulted => ?_, noReset⟩
  have stays : encTurn s = .next s := by rw [encTurn, faulted]
  exact congrArg State.enc (Host.Outcome.next.inj (h.symm.trans stays))

/-- START is not allowed while a unit is in its fault state (R223, R263). -/
theorem not_faulted_of_startAllowed {s : State} (allowed : startAllowed s = true) : ¬ faulted s := by
  obtain ⟨div, enc, _⟩ := (startAllowed_iff s).1 allowed
  rintro (fault | fault)
  · simp [fault] at div
  · simp [fault] at enc

theorem FaultStep.of_runCommand {c : Command} {s t : State} (notReset : c ≠ .reset) (noReset : NoReset s)
    (h : runCommand c s = .next t) : FaultStep s t := by
  cases c with
  | start n =>
    obtain ⟨allowed, _, rfl⟩ := execStart_cases h
    have running := not_faulted_of_startAllowed allowed
    exact ⟨fun fault => absurd (.inl fault) running, fun fault => absurd (.inr fault) running, noReset⟩
  | setMaxLitCount m =>
    obtain ⟨_, _, rfl⟩ := setMaxLitCount_cases h
    exact .of_eq noReset rfl rfl rfl
  | readFlag => cases h; exact .of_eq noReset rfl rfl rfl
  | reset => exact absurd rfl notReset

theorem FaultStep.of_controllerTurn {s t : State} (noReset : NoReset s) (h : controllerTurn s = .next t) :
    FaultStep s t := by
  obtain rfl | ⟨c, cs, cmds, run⟩ := controllerTurn_cases h
  · exact .of_eq noReset rfl rfl rfl
  · obtain ⟨notReset, noResetLeft⟩ : Command.reset ≠ c ∧ Command.reset ∉ cs := by simpa [NoReset, cmds] using noReset
    exact FaultStep.of_runCommand (s := s.withEnv { s.env with cmds := cs }) notReset.symm noResetLeft run

theorem FaultStep.of_act {a : Agent} {s t : State} (noReset : NoReset s) (h : act a s = .next t) : FaultStep s t := by
  cases a with
  | div => exact .of_divTurn noReset h
  | enc => exact .of_encTurn noReset h
  | controller => exact .of_controllerTurn noReset h
  | tokProducer => cases h; exact (HostFrame.of_produceTok s).faultStep noReset
  | outConsumer => cases h; exact (HostFrame.of_consumeOut s).faultStep noReset
  | sizeConsumer => cases h; exact (HostFrame.of_consumeSize s).faultStep noReset
  | descDriver => cases h; exact (HostFrame.of_driveDesc s).faultStep noReset
  | litDriver => cases h; exact (HostFrame.of_driveLit s).faultStep noReset

/-- Settles O55: moving the schedule on touches no unit and no command, and then by the agent whose turn it is. -/
theorem faultIsPermanent : Obligations.FaultIsPermanent := by
  intro s t noReset h
  obtain e | ⟨a, agenda, tick, e⟩ := nextTurn_cases s
  · cases e.symm.trans h; exact FaultStep.of_eq noReset rfl rfl rfl
  · exact FaultStep.of_act (s := (s.withAgenda agenda).withTick tick) noReset (e.symm.trans h)

end Sys2Proof.Machine
end

section
/-! PROOFS, the statements of 70_reset_and_hazards.md on reset and on waiting units: what reset leaves (R290), the deadlock of a
LIT channel too shallow for a run, and that a deep enough one has none (R293, R298). -/

namespace Sys2Proof.Machine

open Sys2Proof.Safety

/-! ### Reset (R290) -/

/-- Settles O48: each register and channel is read off `State.resetWith`, and a lane is one of as many copies of it. -/
theorem resetValues : Obligations.ResetValues := by
  refine ⟨fun c => ?_, rfl, rfl, fun s => ⟨resetLane s, rfl, rfl, rfl, rfl, rfl, rfl⟩⟩
  exact ⟨rfl, rfl, rfl, rfl, rfl, rfl, rfl, rfl, rfl, rfl, rfl, rfl, rfl, rfl, rfl, rfl, rfl, rfl, rfl, rfl, rfl, rfl, rfl,
    rfl, List.length_replicate, fun _ lane => List.eq_of_mem_replicate lane⟩

/-- Settles O51: the channels of the reset state are empty, and its units outside a block. -/
theorem pipelineInvariantAtReset : Obligations.PipelineInvariantAtReset :=
  ⟨fun c => ⟨.of_resetWith c, Memory.wf_reset c⟩, .of_resetWith Config.initial⟩

/-! ### The deadlock of a shallow LIT (R264, R293) -/

/-- DIV waits with a literal next and no room on LIT, ENC with no word on DESC (R293). -/
def LitBlockage (ch : Byte) (off : Half) (s : State) : Prop :=
  s.div.st = .readToken ∧ (∃ ts, s.mem.tok = tokenWord ch 0 off :: ts) ∧ s.cfg.litDepth ≤ s.mem.lit.length ∧
    s.enc.st = .readDescriptor ∧ s.mem.desc = []

/-- With LIT full DIV waits at a literal (R121, R264). -/
theorem divTurn_lit_of_full {s : State} {ch : Byte} {off : Half} {rest : List Word} (st : s.div.st = .readToken)
    (tok : s.mem.tok = tokenWord ch 0 off :: rest) (full : s.cfg.litDepth ≤ s.mem.lit.length) : divTurn s = .next s := by
  obtain ⟨_, waits, _⟩ := literalTokenStep s ch off rest st tok
  exact (divTurn_token st tok (decodeToken_lit _ ch off)).trans (waits full)

section blockage
variable {ch : Byte} {off : Half} {s : State} (h : LitBlockage ch off s)
include h

/-- A push on TOK leaves the token at its head. -/
theorem LitBlockage.of_produceTok : LitBlockage ch off (produceTok s) := by
  obtain ⟨div, ⟨ts, tok⟩, full, enc, desc⟩ := h
  cases toks : s.env.toks with
  | nil =>
    rw [produceTok, toks]
    exact ⟨div, ⟨ts, tok⟩, full, enc, desc⟩
  | cons w rest =>
    by_cases room : s.tokRoom = true
    · rw [produceTok_of_room toks room]
      exact ⟨div, ⟨ts ++ [w], congrArg (· ++ [w]) tok⟩, full, enc, desc⟩
    · rw [produceTok_of_full room]
      exact ⟨div, ⟨ts, tok⟩, full, enc, desc⟩

theorem LitBlockage.of_consumeOut : LitBlockage ch off (consumeOut s) := by
  cases out : s.mem.out with
  | nil => rwa [consumeOut_of_empty out]
  | cons => rwa [consumeOut_of_cons out]

theorem LitBlockage.of_consumeSize : LitBlockage ch off (consumeSize s) := by
  cases size : s.mem.size with
  | nil => rwa [consumeSize_of_empty size]
  | cons => rwa [consumeSize_of_cons size]

end blockage

/-- Settles O54: each unit waits for what only the other gives, and the host's channel agents touch neither LIT nor DESC. -/
theorem shallowLitDeadlock : Obligations.ShallowLitDeadlock := by
  intro s ch off rest stuck div tok full enc desc
  have blocked : LitBlockage ch off s := ⟨div, ⟨rest, tok⟩, full, enc, desc⟩
  refine ⟨divTurn_lit_of_full div tok full, encTurn_of_no_desc (.inl enc) desc, ?_⟩
  rintro a (rfl | rfl | rfl)
  · exact ⟨_, rfl, blocked.of_produceTok⟩
  · exact ⟨_, rfl, blocked.of_consumeOut⟩
  · exact ⟨_, rfl, blocked.of_consumeSize⟩

/-! ### No deadlock with a deep LIT (R293, R298) -/

/-- ENC waits for a descriptor (R163, R164). -/
def AwaitsDescriptor (s : State) : Prop := (s.enc.st = .readDescriptor ∨ s.enc.st = .emptyDiscard) ∧ s.mem.desc = []

/-- With room on LIT and DESC every token's rule is enabled (R121 to R124). -/
theorem tokenReady_of_room {s : State} (lit : s.litRoom = true) (desc : s.descRoom = true) (w : Word) :
    tokenReady s (decodeToken (atCeiling s) w) = true := by
  obtain ⟨_, e⟩ | ⟨_, e⟩ | ⟨_, e⟩ | ⟨_, _, e⟩ | ⟨_, _, e⟩ := decodeToken_cases (atCeiling s) w <;> rw [e]
  · exact lit
  · rfl
  · rfl
  · rfl
  · cases ceiling : atCeiling s <;> simp [tokenReady, ceiling, desc]

section progress
variable {s : State} (inv : PipelineInv s) (running : ¬ faulted s)
include inv running

/-- A literal byte that ENC copies next is on LIT (R71, R168). -/
theorem lit_ne_nil_of_emitLiteralBytes (st : s.enc.st = .emitLiteralBytes) : s.mem.lit ≠ [] := by
  intro empty
  obtain ⟨owing, _⟩ := inv.counts.2.1 st
  have agree := inv.streams.resolve_left running
  simp only [empty, List.length_nil, literalsOwed, st] at agree
  omega

/-- With room on OUT, ENC has a step inside its block unless it waits for a descriptor (R161 to R171). -/
theorem encReady_or_awaitsDescriptor (inBlock : encInBlock s.enc = true) (room : s.outRoom = true)
    (sizeRoom : s.sizeRoom = true) : encReady s = true ∨ AwaitsDescriptor s := by
  cases st : s.enc.st with
  | idle | writeSize | done | fault => simp [encInBlock, st] at inBlock
  | emptySize => exact .inl (by simp only [encReady, st, sizeRoom])
  | emptyTerm | emitTokenByte | emitLitLenExt | emitOffsetLow | emitOffsetHigh | emitMatchLenExt =>
    exact .inl (by simp only [encReady, st, room])
  | emitLiteralBytes =>
    exact .inl (by simp [encReady, st, room, lit_ne_nil_of_emitLiteralBytes inv running st])
  | readDescriptor | emptyDiscard =>
    by_cases desc : s.mem.desc = []
    · exact .inr ⟨by simp [st], desc⟩
    · exact .inl (by simp [encReady, st, desc])

/-- While ENC waits for a descriptor, LIT holds DIV's open run alone, which is shorter than the block (R25, R71). -/
theorem litRoom_of_awaitsDescriptor (st : s.div.st = .readToken) (waits : AwaitsDescriptor s)
    (deep : s.div.n.toNat ≤ s.cfg.litDepth) : s.litRoom = true := by
  obtain ⟨enc, desc⟩ := waits
  obtain ⟨counted, inside, _⟩ := inv.walk.1 st
  have owed : literalsOwed s.enc = 0 := by obtain e | e := enc <;> simp [literalsOwed, e]
  have agree := inv.streams.resolve_left running
  simp only [owed, desc, runsIn_nil, openRun, st] at agree
  exact (State.litRoom_iff s).2 (by omega)

/-- While ENC waits for a descriptor, DIV has a step inside its block (R293). -/
theorem divReady_of_awaitsDescriptor (inBlock : divInBlock s.div = true) (waits : AwaitsDescriptor s)
    (deep : s.div.n.toNat ≤ s.cfg.litDepth) (room : s.descRoom = true) (supplied : s.div.st = .readToken → s.mem.tok ≠ []) :
    divReady s = true := by
  obtain st | st | st := (divInBlock_iff _).1 inBlock
  · obtain ⟨w, ws, tok⟩ := List.exists_cons_of_ne_nil (supplied st)
    simp only [divReady, st, tok]
    exact tokenReady_of_room (litRoom_of_awaitsDescriptor inv running st waits deep) room w
  · simp only [divReady, st, flushReady, room, Bool.or_true]
  · simp only [divReady, st, room]

end progress

/-- Settles O53: by the phases of the two units. Where ENC waits for a descriptor DIV is in its block, and then it has a step. -/
theorem noDeadlockWithDeepLit : Obligations.NoDeadlockWithDeepLit := by
  intro s inv running notIdle notDone descDepth outDepth sizeDepth deep out size supplied
  have outRoom : s.outRoom = true := (State.outRoom_iff s).2 (by rw [out]; exact outDepth)
  have sizeRoom : s.sizeRoom = true := (State.sizeRoom_iff s).2 (by rw [size]; exact sizeDepth)
  obtain fault | ⟨div, enc, _⟩ | ⟨div, enc, _⟩ | ⟨_, enc, ds, last, _⟩ | ⟨div, writing | done, _⟩ := inv.phases
  · exact absurd fault running
  · exact absurd ⟨div, enc⟩ notIdle
  · obtain ready | waits := encReady_or_awaitsDescriptor inv running enc outRoom sizeRoom
    · exact .inr ready
    · have descRoom : s.descRoom = true := (State.descRoom_iff s).2 (by rw [waits.2]; exact descDepth)
      exact .inl (divReady_of_awaitsDescriptor inv running div waits deep descRoom supplied)
  · obtain ready | ⟨_, empty⟩ := encReady_or_awaitsDescriptor inv running enc outRoom sizeRoom
    · exact .inr ready
    · simp [empty] at last
  · exact .inr (by simp only [encReady, writing, sizeRoom])
  · exact absurd ⟨div, done⟩ notDone

end Sys2Proof.Machine
end

section
/-! PROOFS, the statement of 70_reset_and_hazards.md on fair runs (R300): the work a block still has to do falls with every
enabled step, so a run comes to a state where no agent has one; there, by the absence of deadlock, the block is finished. -/

namespace Sys2Proof.Machine

open Sys2Proof.Safety

/-! ### The work left to DIV -/

/-- A bound on the steps DIV still takes in its block: one for each byte the walk has not reached, then flush and end (R121 to
R129). -/
def divLeft (d : Divider) : Nat :=
  match d.st with
  | .readToken => d.n.toNat - d.pos.toNat + 2
  | .flush => 2
  | .emitEnd => 1
  | _ => 0

/-- The work after a token that moves the position on to `pos` (R125). -/
theorem divLeft_walkEnd (d : Divider) (litCount pos : Word) (ovf : Bool) :
    divLeft { d with litCount := litCount, pos := pos, ovf := ovf, st := walkEnd d.n pos } =
      d.n.toNat - pos.toNat + 2 := by
  by_cases last : pos = d.n
  · simp [walkEnd, divLeft, last]
  · simp [walkEnd, divLeft, last]

theorem walkEnd_ne_idle (n pos : Word) : walkEnd n pos ≠ .idle := by
  unfold walkEnd
  split <;> nofun

/-- From `d` to `d'` DIV goes on with its block, or faults. -/
structure DividerGoesOn (d d' : Divider) : Prop where
  n : d'.n = d.n
  begun : d'.st ≠ .idle
  less : divLeft d' < divLeft d

/-- A token that is no fault takes DIV on in its walk (R121 to R123, R125). -/
theorem DividerGoesOn.of_tokenMove {s : State} (walk : DividerWalk s) (st : s.div.st = .readToken) (litCount : Word)
    {pos : Word} (ovf : Bool) (further : s.div.pos.toNat < pos.toNat) :
    DividerGoesOn s.div { s.div with litCount := litCount, pos := pos, ovf := ovf, st := walkEnd s.div.n pos } := by
  obtain ⟨_, inside, _⟩ := walk.1 st
  refine ⟨rfl, walkEnd_ne_idle _ _, ?_⟩
  have left : divLeft s.div = s.div.n.toNat - s.div.pos.toNat + 2 := by simp only [divLeft, st]
  rw [divLeft_walkEnd, left]
  omega

/-- A turn of DIV changes nothing or takes DIV on. -/
theorem DivStep.goesOn {s t : State} (h : DivStep s t) (walk : DividerWalk s) : t = s ∨ DividerGoesOn s.div t.div := by
  cases h with
  | stuck => exact .inl rfl
  | lit ch off st =>
    obtain ⟨_, inside, bound⟩ := walk.1 st
    simp only [maxBlock] at bound
    have pos : (s.div.pos + 1).toNat = s.div.pos.toNat + 1 := BitVec.toNat_add_of_lt (by simp; omega)
    exact .inr (.of_tokenMove walk st (s.div.litCount + 1) s.div.ovf (by omega))
  | fault w f st => exact .inr ⟨rfl, nofun, by simp [divLeft, tokenFault, raiseDiv, st]⟩
  | matched ch raw off st head long near fits =>
    have pos := toNat_add_matchCover fits
    simp only [minMatch] at long
    exact .inr (.of_tokenMove walk st 0 s.div.ovf (by omega))
  | dropped ch raw off st head long near fits =>
    have pos := toNat_add_matchCover fits
    simp only [minMatch] at long
    exact .inr (.of_tokenMove walk st s.div.litCount true (by omega))
  | flush st =>
    have n : (flushEffect s).div.n = s.div.n := by
      obtain ⟨_, e⟩ | ⟨_, _, e⟩ | ⟨_, _, e⟩ := flushEffect_cases s <;> rw [e] <;> rfl
    exact .inr ⟨n, by simp [st_flushEffect], by simp [divLeft, st_flushEffect, st]⟩
  | emitEnd st => exact .inr ⟨rfl, nofun, by simp [divLeft, emitEndEffect, st]⟩

/-! ### The work left to ENC -/

/-- A bound on the steps ENC still takes for its record and, after it, for END (R161 to R172). -/
def encSteps (e : Encoder) : Nat :=
  match e.st with
  | .emptySize => 4
  | .emptyTerm => 3
  | .emptyDiscard => 2
  | .readDescriptor => 2
  | .emitTokenByte => 2 * e.L.toNat + e.ML.toNat + 7
  | .emitLitLenExt => e.rem.toNat + e.L.toNat + e.ML.toNat + 6
  | .emitLiteralBytes => e.litLeft.toNat + e.ML.toNat + 5
  | .emitOffsetLow => e.ML.toNat + 5
  | .emitOffsetHigh => e.ML.toNat + 4
  | .emitMatchLenExt => e.rem.toNat + 3
  | .writeSize => 1
  | _ => 0

/-- What a word on DESC adds to ENC's work. -/
def recordSteps (d : DWord) : Nat := 2 * (descL d).toNat + (descML d).toNat + 6

/-- A bound on the steps ENC takes if DIV pushes nothing more. -/
def encLeft (s : State) : Nat := encSteps s.enc + (s.mem.desc.map recordSteps).sum

section encoder
variable {s : State}

/-- ENC takes the word `d`. -/
theorem encLeft_popDesc_lt {d : DWord} {e : Encoder} (head : s.mem.desc.head? = some d)
    (fewer : encSteps e < encSteps s.enc + recordSteps d) : encLeft ((s.withMem s.mem.popDesc).withEnc e) < encLeft s := by
  obtain ⟨ds, desc⟩ := List.head?_eq_some_iff.1 head
  simp [encLeft, desc]
  omega

/-- ENC goes on with the registers `e`, or R181's fault leaves it no work. -/
theorem encLeft_emit_lt {b : Byte} {m : Memory} {e : Encoder} (desc : m.desc = s.mem.desc)
    (fewer : encSteps e < encSteps s.enc) : encLeft (emit b m e s) < encLeft s := by
  by_cases full : s.enc.size = BitVec.allOnes 32
  · rw [emit_of_eq full]
    exact Nat.add_lt_add_right (Nat.zero_lt_of_lt fewer) _
  · rw [emit_of_ne full]
    simp only [encLeft, State.withEnc_mem, State.withEnc_enc, State.withMem_mem, Memory.pushOut_desc, desc]
    exact Nat.add_lt_add_right fewer _

/-- An extension byte lowers the remainder; the last one goes on with `last` (R167, R171). -/
theorem encLeft_extByteEffect_lt {last : Encoder}
    (more : ∀ rem : Word, rem.toNat < s.enc.rem.toNat → encSteps { s.enc with rem := rem } < encSteps s.enc)
    (final : encSteps last < encSteps s.enc) : encLeft (extByteEffect last s) < encLeft s := by
  unfold extByteEffect
  split
  case isTrue full =>
    have fewer := toNat_sub_extUnit full
    simp only [extUnit] at full fewer
    exact encLeft_emit_lt rfl (more _ (by simp only [extUnit]; omega))
  case isFalse => exact encLeft_emit_lt rfl final

/-- Once the literals are written, the match is left (R166). -/
theorem encSteps_afterLiterals_le (e : Encoder) (litLeft : Word) :
    encSteps { e with litLeft := litLeft, st := afterLiterals e } ≤ e.ML.toNat + 5 := by
  cases only : isLiteralOnly e.ML e.OFF <;> simp [afterLiterals, only, encSteps]

theorem encSteps_afterTokenByte_lt (st : s.enc.st = .emitTokenByte) :
    encSteps (afterTokenByte s.enc) < encSteps s.enc := by
  have left : encSteps s.enc = 2 * s.enc.L.toNat + s.enc.ML.toNat + 7 := by simp only [encSteps, st]
  rw [left]
  unfold afterTokenByte
  split
  case isTrue long =>
    have rem : (s.enc.L - BitVec.ofNat 32 nibbleMax).toNat = s.enc.L.toNat - nibbleMax := BitVec.toNat_sub_of_le long
    simp only [encSteps, rem]
    omega
  case isFalse =>
    split
    case isTrue => simp only [encSteps]; omega
    case isFalse =>
      have after := encSteps_afterLiterals_le s.enc s.enc.litLeft
      omega

theorem encSteps_afterLiteralByte_lt (st : s.enc.st = .emitLiteralBytes) (some : 1 ≤ s.enc.litLeft.toNat) :
    encSteps (afterLiteralByte s.enc) < encSteps s.enc := by
  have left : encSteps s.enc = s.enc.litLeft.toNat + s.enc.ML.toNat + 5 := by simp only [encSteps, st]
  have fewer : (s.enc.litLeft - 1).toNat = s.enc.litLeft.toNat - 1 := BitVec.toNat_sub_of_le some
  rw [left]
  unfold afterLiteralByte
  split
  case isTrue =>
    have after := encSteps_afterLiterals_le s.enc (s.enc.litLeft - 1)
    omega
  case isFalse => simp only [encSteps, fewer]; omega

theorem encSteps_afterOffsetHigh_lt (st : s.enc.st = .emitOffsetHigh) :
    encSteps (afterOffsetHigh s.enc) < encSteps s.enc := by
  have left : encSteps s.enc = s.enc.ML.toNat + 4 := by simp only [encSteps, st]
  rw [left]
  unfold afterOffsetHigh
  split
  case isTrue long =>
    have rem : (s.enc.ML.setWidth 32 - BitVec.ofNat 32 nibbleMax).toNat ≤ s.enc.ML.toNat := by
      rw [setWidth_sub_nibbleMax long, BitVec.toNat_ofNat]
      exact (Nat.mod_le _ _).trans (Nat.sub_le _ _)
    simp only [encSteps]
    omega
  case isFalse => simp only [encSteps]; omega

/-- A turn of ENC changes nothing or takes ENC on. -/
theorem EncStep.less {t : State} (h : EncStep s t) (counts : EncoderCounts s) : t = s ∨ encLeft t < encLeft s := by
  cases h with
  | stuck => exact .inl rfl
  | finish st head | discard st head | notSentinel d st head =>
    exact .inr (encLeft_popDesc_lt head (Nat.lt_add_right _ (by simp [encSteps, st])))
  | latch L ML OFF st head => exact .inr (encLeft_popDesc_lt head (by simp [encSteps, recordSteps, st]; omega))
  | emptySize st | emptyTerm st | writeSize st =>
    exact .inr (Nat.add_lt_add_right (by simp [encSteps, emptySizeEffect, emptyTermEffect, writeSizeEffect, st]) _)
  | tokenByte st => exact .inr (encLeft_emit_lt rfl (encSteps_afterTokenByte_lt st))
  | litLenExt st | matchLenExt st =>
    refine .inr (encLeft_extByteEffect_lt (fun rem fewer => ?_) ?_)
    · simp only [encSteps, st]; omega
    · simp only [encSteps, st]; omega
  | literalByte st =>
    cases lit : s.mem.lit with
    | nil => exact .inl (by simp only [literalByteEffect, lit])
    | cons b bs =>
      obtain ⟨some, _⟩ := counts.2.1 st
      rw [literalByteEffect_of_cons lit]
      exact .inr (encLeft_emit_lt rfl (encSteps_afterLiteralByte_lt st some))
  | offsetLow st => exact .inr (encLeft_emit_lt rfl (by simp [encSteps, st]))
  | offsetHigh st => exact .inr (encLeft_emit_lt rfl (encSteps_afterOffsetHigh_lt st))

end encoder

/-! ### The work left to the block -/

/-- What the host's agents still have to give and to take. -/
def hostLeft (s : State) : Nat :=
  s.mem.out.length + s.mem.size.length + s.env.toks.length + s.env.cmds.length

/-- DIV gives ENC work, and ENC and DIV give the host work, so the three count in this order. -/
def workLeft (s : State) : ℕ ×ₗ ℕ ×ₗ ℕ := toLex (divLeft s.div, toLex (encLeft s, hostLeft s))

/-- From `s` to `t` the block goes on: nothing starts a new one, and there is less work left. -/
structure BlockGoesOn (s t : State) : Prop where
  n : t.div.n = s.div.n
  cfg : t.cfg = s.cfg
  begun : t.div.st ≠ .idle
  less : workLeft t < workLeft s

/-- The host gives or takes something, and the units and DESC stay. -/
theorem BlockGoesOn.of_host {s t : State} (begun : s.div.st ≠ .idle) (div : t.div = s.div) (enc : t.enc = s.enc)
    (desc : t.mem.desc = s.mem.desc) (cfg : t.cfg = s.cfg) (less : hostLeft t < hostLeft s) : BlockGoesOn s t := by
  refine ⟨by rw [div], cfg, by rwa [div], ?_⟩
  simp [workLeft, encLeft, Prod.Lex.toLex_lt_toLex, div, enc, desc, less]

theorem BlockGoesOn.of_div {s t : State} (cfg : t.cfg = s.cfg) (on : DividerGoesOn s.div t.div) : BlockGoesOn s t :=
  ⟨on.n, cfg, on.begun, Prod.Lex.toLex_lt_toLex.2 (.inl on.less)⟩

theorem BlockGoesOn.of_enc {s t : State} (begun : s.div.st ≠ .idle) (div : t.div = s.div) (cfg : t.cfg = s.cfg)
    (less : encLeft t < encLeft s) : BlockGoesOn s t := by
  refine ⟨by rw [div], cfg, by rwa [div], ?_⟩
  simp [workLeft, Prod.Lex.toLex_lt_toLex, div, less]

/-- The turn of `a` from `s` to `t` changes nothing, as `a` has no enabled step, or the block goes on. -/
def WaitsOrGoesOn (a : Agent) (s t : State) : Prop := (t = s ∧ agentReady s a = false) ∨ BlockGoesOn s t

/-! ### A lane in a block -/

/-- A lane of the pipeline with a block begun, no unit faulted, LIT deep enough, and nothing further to start once the block is
done. -/
structure Live (s : State) : Prop where
  inv : PipelineInv s
  noReset : NoReset s
  accepted : configAccepted s.cfg = true
  running : ¬ faulted s
  begun : s.div.st ≠ .idle
  deep : s.div.n.toNat ≤ s.cfg.litDepth
  closed : s.div.st = .done → s.enc.st = .done → s.env.cmds = []

/-- With no unit faulted the two are idle together (R296). -/
theorem div_idle_iff_enc_idle {s : State} (inv : PipelineInv s) (running : ¬ faulted s) :
    s.div.st = .idle ↔ s.enc.st = .idle := by
  obtain fault | ⟨div, enc, _⟩ | ⟨div, enc, _⟩ | ⟨div, enc, _⟩ | ⟨div, writing | done, _⟩ := inv.phases
  · exact absurd fault running
  · simp [div, enc]
  · have notIdle : s.div.st ≠ .idle := by obtain st | st | st := (divInBlock_iff _).1 div <;> simp [st]
    simp [notIdle, ((encInBlock_iff _).1 enc).1]
  · simp [div, ((encInBlock_iff _).1 enc).1]
  · simp [div, writing]
  · simp [div, done]

/-- With no command to give the controller's turn changes nothing. -/
theorem controllerTurn_nil {s : State} (cmds : s.env.cmds = []) : controllerTurn s = .next s := by
  simp [controllerTurn, cmds]

section live
variable {s : State} (live : Live s)
include live

/-- A controller with a command to give cannot start a block or change MAX_LIT_COUNT (R223). -/
theorem Live.not_startAllowed (busy : s.env.cmds ≠ []) : ¬ startAllowed s = true := by
  intro allowed
  obtain ⟨div, enc, _⟩ := (startAllowed_iff s).1 allowed
  have div := div.resolve_left live.begun
  have enc := enc.resolve_left fun idle => live.begun ((div_idle_iff_enc_idle live.inv live.running).2 idle)
  exact busy (live.closed div enc)

theorem Live.turn_div {t : State} (h : divTurn s = .next t) : WaitsOrGoesOn .div s t := by
  have turn := DivStep.of_turn h
  obtain rfl | on := turn.goesOn live.inv.walk
  · exact .inl ⟨rfl, (divTurn_eq_self_iff t).1 h⟩
  · exact .inr (.of_div turn.cfg_eq on)

theorem Live.turn_enc {t : State} (h : encTurn s = .next t) : WaitsOrGoesOn .enc s t := by
  have turn := EncStep.of_turn h
  obtain rfl | less := turn.less live.inv.counts
  · exact .inl ⟨rfl, (encTurn_eq_self_iff t).1 h⟩
  · obtain ⟨enc, mem, rfl⟩ := turn.frame
    exact .inr (.of_enc live.begun rfl rfl less)

theorem Live.turn_tokProducer : WaitsOrGoesOn .tokProducer s (produceTok s) := by
  cases toks : s.env.toks with
  | nil => exact .inl ⟨by simp only [produceTok, toks], by simp [agentReady, toks]⟩
  | cons w rest =>
    by_cases room : s.tokRoom = true
    · rw [produceTok_of_room toks room]
      exact .inr (.of_host live.begun rfl rfl rfl rfl (by simp [hostLeft, toks]))
    · exact .inl ⟨produceTok_of_full room, by simp [agentReady, room]⟩

theorem Live.turn_outConsumer : WaitsOrGoesOn .outConsumer s (consumeOut s) := by
  cases out : s.mem.out with
  | nil => exact .inl ⟨consumeOut_of_empty out, by simp [agentReady, out]⟩
  | cons b rest =>
    rw [consumeOut_of_cons out]
    exact .inr (.of_host live.begun rfl rfl rfl rfl (by simp [hostLeft, out]))

theorem Live.turn_sizeConsumer : WaitsOrGoesOn .sizeConsumer s (consumeSize s) := by
  cases size : s.mem.size with
  | nil => exact .inl ⟨consumeSize_of_empty size, by simp [agentReady, size]⟩
  | cons n rest =>
    rw [consumeSize_of_cons size]
    exact .inr (.of_host live.begun rfl rfl rfl rfl (by simp [hostLeft, size]))

/-- In a block the controller can only read OVF_FLAG (R223, R225). -/
theorem Live.turn_controller {t : State} (h : controllerTurn s = .next t) : WaitsOrGoesOn .controller s t := by
  cases cmds : s.env.cmds with
  | nil =>
    cases (controllerTurn_nil cmds).symm.trans h
    exact .inl ⟨rfl, by simp [agentReady, cmds]⟩
  | cons c cs =>
    have busy := live.not_startAllowed (by simp [cmds])
    rw [controllerTurn_cons cmds] at h
    cases c with
    | start n =>
      obtain ⟨allowed, _⟩ := execStart_cases h
      exact absurd allowed busy
    | setMaxLitCount m =>
      obtain ⟨allowed, _⟩ := setMaxLitCount_cases h
      exact absurd allowed busy
    | readFlag =>
      cases h
      exact .inr (.of_host live.begun rfl rfl rfl rfl (by simp [hostLeft, readFlag, cmds]))
    | reset => exact absurd (by simp [cmds]) live.noReset

theorem Live.turn {a : Agent} {t : State} (h : act a s = .next t) : WaitsOrGoesOn a s t := by
  obtain ⟨descs, lits⟩ := live.inv.noHarness
  cases a with
  | div => exact live.turn_div h
  | enc => exact live.turn_enc h
  | controller => exact live.turn_controller h
  | tokProducer => cases h; exact live.turn_tokProducer
  | outConsumer => cases h; exact live.turn_outConsumer
  | sizeConsumer => cases h; exact live.turn_sizeConsumer
  | descDriver => cases h; exact .inl ⟨driveDesc_of_noHarness live.inv.noHarness, by simp [agentReady, descs]⟩
  | litDriver => cases h; exact .inl ⟨driveLit_of_noHarness live.inv.noHarness, by simp [agentReady, lits]⟩

/-- Being in a block does not rest on the schedule. -/
theorem Live.rescheduled (agenda : List Agent) (tick : Nat) : Live ((s.withAgenda agenda).withTick tick) :=
  { live with inv := live.inv.congr rfl rfl rfl rfl rfl rfl rfl }

end live

/-- Having an enabled step does not rest on the schedule. -/
theorem agentReady_rescheduled (s : State) (agenda : List Agent) (tick : Nat) (a : Agent) :
    agentReady ((s.withAgenda agenda).withTick tick) a = agentReady s a := by
  cases a <;> rfl

/-- A step moves the schedule on, and the agent whose turn it is has no enabled step, or the block goes on. -/
theorem Live.step_cases {s t : State} (live : Live s) (h : step s = .next t) :
    ((∃ agenda tick, t = (s.withAgenda agenda).withTick tick) ∧ ∀ a, takesTurn a s → agentReady s a = false) ∨
    BlockGoesOn s t := by
  obtain nobody | ⟨a, agenda, tick, turn⟩ := chosenTurn_cases s
  · cases (show step s = .next s by simp [step, nextTurn, nobody]).symm.trans h
    exact .inl ⟨⟨s.agenda, s.tick, rfl⟩, fun a ⟨u, turn⟩ => by simp [nobody] at turn⟩
  · obtain ⟨rfl, idle⟩ | on := (live.rescheduled agenda tick).turn ((nextTurn_of_chosen turn).symm.trans h)
    · refine .inl ⟨⟨agenda, tick, rfl⟩, fun b ⟨u, turn'⟩ => ?_⟩
      obtain ⟨rfl, _⟩ : a = b ∧ _ := by simpa using turn.symm.trans turn'
      rwa [agentReady_rescheduled] at idle
    · exact .inr ⟨on.n, on.cfg, on.begun, on.less⟩

/-- A step keeps the lane in its block, unless a unit faults or something further is to start. -/
theorem Live.of_step {s t : State} (live : Live s) (h : step s = .next t) (running : ¬ faulted t)
    (closed : t.div.st = .done → t.enc.st = .done → t.env.cmds = []) : Live t := by
  have inv := pipelineInvariantKept s t live.inv h
  obtain ⟨_, _, noReset⟩ := faultIsPermanent s t live.noReset h
  have accepted := (ConfigStep.of_step h).accepted live.accepted
  obtain ⟨⟨agenda, tick, rfl⟩, _⟩ | on := live.step_cases h
  · exact ⟨inv, noReset, accepted, running, live.begun, live.deep, closed⟩
  · exact ⟨inv, noReset, accepted, running, on.begun, by rw [on.n, on.cfg]; exact live.deep, closed⟩

/-! ### Fair runs (R300) -/

/-- Where the work left is least, only the schedule moves on. -/
theorem rescheduled_of_least {r : Nat → State} (run : IsRun r) (live : ∀ k, Live (r k)) {k : Nat}
    (least : ∀ m, ¬ workLeft (r m) < workLeft (r k)) (j : Nat) :
    ∃ agenda tick, r (k + j) = ((r k).withAgenda agenda).withTick tick := by
  induction j with
  | zero => exact ⟨(r k).agenda, (r k).tick, rfl⟩
  | succ j ih =>
    obtain ⟨agenda, tick, e⟩ := ih
    obtain ⟨⟨agenda', tick', e'⟩, _⟩ | on := (live (k + j)).step_cases (run (k + j))
    · exact ⟨agenda', tick', by rw [← Nat.add_assoc, e', e]; rfl⟩
    · have less := on.less
      rw [e] at less
      exact absurd less (least (k + j + 1))

/-- A fair run in a block comes to a state in which no agent has an enabled step: where the work left is least, an enabled agent
would stay enabled, and its turn would leave less. -/
theorem exists_quiescent {r : Nat → State} (run : IsRun r) (fair : WeaklyFair r) (live : ∀ k, Live (r k)) :
    ∃ k, ∀ a, agentReady (r k) a = false := by
  obtain ⟨k, least⟩ : ∃ k, ∀ m, ¬ workLeft (r m) < workLeft (r k) := ⟨_, Function.not_lt_argmin (workLeft ∘ r)⟩
  refine ⟨k, fun a => Bool.eq_false_iff.2 fun ready => ?_⟩
  have stays (m : Nat) (later : k ≤ m) : agentReady (r m) a = true ∧ workLeft (r m) = workLeft (r k) := by
    obtain ⟨j, rfl⟩ := Nat.exists_eq_add_of_le later
    obtain ⟨agenda, tick, e⟩ := rescheduled_of_least run live least j
    rw [e, agentReady_rescheduled]
    exact ⟨ready, rfl⟩
  obtain ⟨m, later, turn⟩ := fair a k fun m later => (stays m later).1
  obtain ⟨still, work⟩ := stays m later
  obtain ⟨_, waits⟩ | on := (live m).step_cases (run m)
  · exact Bool.false_ne_true ((waits a turn).symm.trans still)
  · exact least (m + 1) (work ▸ on.less)

/-- A lane in a block, tokens supplied, in which no agent has an enabled step has finished the block (R226, R293). -/
theorem Live.finished_of_quiescent {s : State} (live : Live s)
    (supplied : s.div.st = .readToken → s.mem.tok ≠ [] ∨ s.env.toks ≠ []) (quiet : ∀ a, agentReady s a = false) :
    finished s := by
  obtain ⟨_, _, tokDepth, _, descDepth, outDepth, sizeDepth⟩ := (configAccepted_iff s.cfg).1 live.accepted
  have out : s.mem.out = [] := by simpa [agentReady] using quiet .outConsumer
  have size : s.mem.size = [] := by simpa [agentReady] using quiet .sizeConsumer
  have tok (reading : s.div.st = .readToken) : s.mem.tok ≠ [] := by
    intro empty
    have toks := (supplied reading).resolve_left (not_not_intro empty)
    have room : s.tokRoom = true := (State.tokRoom_iff s).2 (by rw [empty]; exact tokDepth)
    simpa [agentReady, toks, room] using quiet .tokProducer
  have done : s.div.st = .done ∧ s.enc.st = .done := by
    by_contra busy
    obtain ready | ready := noDeadlockWithDeepLit s live.inv live.running (fun idle => live.begun idle.1) busy descDepth
      outDepth sizeDepth live.deep out size tok
    · exact Bool.false_ne_true ((quiet .div).symm.trans ready)
    · exact Bool.false_ne_true ((quiet .enc).symm.trans ready)
  obtain ⟨div, enc⟩ := done
  obtain ⟨lit, desc⟩ := finishedBlockLeavesNoData s live.inv div enc
  exact ⟨div, enc, lit, desc, size, out⟩

/-- A controller with no command to give never has one. -/
theorem cmds_nil_of_step {s t : State} (cmds : s.env.cmds = []) (h : step s = .next t) : t.env.cmds = [] := by
  refine inv_of_step (P := fun s => s.env.cmds = []) (fun _ _ _ cmds => cmds) (fun a s t cmds turn => ?_) cmds h
  have host (frame : HostFrame s t) : t.env.cmds = [] := by
    obtain ⟨_, _, rfl, same⟩ := frame
    exact same.trans cmds
  cases a with
  | div =>
    obtain ⟨_, _, _, rfl⟩ := (DivStep.of_turn turn).frame
    exact cmds
  | enc =>
    obtain ⟨_, _, rfl⟩ := (EncStep.of_turn turn).frame
    exact cmds
  | controller =>
    cases (controllerTurn_nil cmds).symm.trans turn
    exact cmds
  | tokProducer => cases turn; exact host (.of_produceTok s)
  | outConsumer => cases turn; exact host (.of_consumeOut s)
  | sizeConsumer => cases turn; exact host (.of_consumeSize s)
  | descDriver => cases turn; exact host (.of_driveDesc s)
  | litDriver => cases turn; exact host (.of_driveLit s)

/-- What holds at first and is kept by every step holds all along a run. -/
theorem inv_of_run {P : State → Prop} {r : Nat → State} (run : IsRun r) (start : P (r 0))
    (kept : ∀ s t, P s → step s = .next t → P t) (k : Nat) : P (r k) := by
  induction k with
  | zero => exact start
  | succ k ih => exact kept _ _ ih (run k)

/-- Without a fault, and with nothing further to start, a fair and supplied run from a block finishes it. -/
theorem exists_finished {r : Nat → State} (run : IsRun r) (fair : WeaklyFair r) (supplied : TokensSupplied r)
    (running : ∀ k, ¬ faulted (r k)) (closed : ∀ k, (r k).div.st = .done → (r k).enc.st = .done → (r k).env.cmds = [])
    (start : Live (r 0)) : ∃ k, finished (r k) := by
  have live (k : Nat) : Live (r k) := by
    induction k with
    | zero => exact start
    | succ k ih => exact ih.of_step (run k) (running (k + 1)) (closed (k + 1))
  obtain ⟨k, quiet⟩ := exists_quiescent run fair live
  exact ⟨k, (live k).finished_of_quiescent (supplied k) quiet⟩

/-- Settles O60: a run that never came to its end would be in its block for ever, and so come to finish it. -/
theorem fairBlockEnds : Obligations.FairBlockEnds := by
  intro r run fair supplied inv noReset accepted begun deep
  have finishes (running : ∀ k, ¬ faulted (r k))
      (closed : ∀ k, (r k).div.st = .done → (r k).enc.st = .done → (r k).env.cmds = []) : ∃ k, finished (r k) := by
    have started : (r 0).div.st ≠ .idle :=
      fun idle => begun ⟨idle, (div_idle_iff_enc_idle inv (running 0)).1 idle⟩
    exact exists_finished run fair supplied running closed
      ⟨inv, noReset, accepted, running 0, started, deep, closed 0⟩
  refine ⟨by_contra fun never => ?_, fun cmds => by_contra fun never => ?_⟩
  · have ends {k : Nat} (div : (r k).div.st = .done) (enc : (r k).enc.st = .done) : False :=
      never ⟨k, .inr ⟨div, enc, finishedBlockLeavesNoData (r k) (inv_of_run run inv pipelineInvariantKept k) div enc⟩⟩
    obtain ⟨k, div, enc, _⟩ := finishes (fun k fault => never ⟨k, .inl fault⟩) fun _ div enc => (ends div enc).elim
    exact ends div enc
  · obtain ⟨k, done⟩ := finishes (fun k fault => never ⟨k, .inl fault⟩)
      fun k _ _ => inv_of_run run cmds (fun _ _ => cmds_nil_of_step) k
    exact never ⟨k, .inr done⟩

end Sys2Proof.Machine
end
